-- ==== Sys2Proof/Word.lean ====
section
/-! DEFINITION. The word types of the encoder (00_scope R9): bytes and unsigned 32-bit values. Everything that
computes with them stands in Decode.lean and under Machine/. -/

namespace Sys2Proof

/-- An unsigned 8-bit value (R9). -/
abbrev Byte := BitVec 8

/-- The 16-bit device code of the JEDEC response (R76, R208). -/
abbrev U16 := BitVec 16

/-- A 24-bit operand as it travels on the wire: a page address (R175), or a column address that may use
only its low 16 bits (R176). -/
abbrev U24 := BitVec 24

/-- An unsigned 32-bit value: offset, page index, column, length or count (R9). -/
abbrev U32 := BitVec 32

end Sys2Proof
end

