-- ==== Sys2Proof/Config.lean ====
section
/-! DEFINITION. What is fixed for the life of the encoder (00_scope R6, 10_state R42): geometry, Command Table,
status-register layout, poll bound, erase range, known devices, the parameters of the reference device
(20_memory R90), and the free values that the spec leaves open. -/

namespace Sys2Proof

/-! ## Values settled by the source (R6, "fixed") -/

/-- `PAGE_SIZE` (R6). -/
def pageSize : Nat := 2048

/-- `PAGES_PER_BLOCK` (R6). -/
def pagesPerBlock : Nat := 64

/-- `BLOCK_SIZE` (R6). -/
def blockSize : Nat := 131072

/-- `MARKER_COL` (R6, R72): the first byte past the data region. -/
def markerCol : U32 := 2048#32

/-- `SEL_SR1` (R6, R50). -/
def selSr1 : Byte := 0xA0#8

/-- `SEL_SR2` (R6, R51). -/
def selSr2 : Byte := 0xB0#8

/-- `SEL_SR3` (R6, R52). -/
def selSr3 : Byte := 0xC0#8

/-- `DUMMY` (R6, decision D6). -/
def dummyByte : Byte := 0x00#8

/-! ## The parameters (R6, "param") -/

/-- A transport-error value. R6 calls it "an opaque type": the tag is never read by any rule (log 15,
DESIGN CHOICE). -/
structure TErr where
  tag : Nat
deriving DecidableEq, Repr, Inhabited

/-- `COL_ADDR_BYTES`, allowed 2 or 3 (R6, R156). -/
inductive ColWidth where
  | two
  | three
deriving DecidableEq, Repr

/-- `POLL_LIMIT`: `Unbounded` or an integer (R6, R212). -/
inductive PollLimit where
  | unbounded
  | limit (n : Nat)
deriving DecidableEq, Repr

/-- `ERASE_RANGE` (R6, conflict C1): the default is `Inclusive`. -/
inductive EraseRange where
  | inclusive
  | exclusive
deriving DecidableEq, Repr

/-- The position of a field in a register byte: bits `hi` down to `lo` (R10, R200). -/
structure Field where
  hi : Nat
  lo : Nat
deriving DecidableEq, Repr

/-- `SR_LAYOUT` (R6, R50–R52): where each field of the three device registers stands. A parameter, not a fact
of the source; the defaults are the spec's (log 7). -/
structure SrLayout where
  srp0 : Field := ⟨7, 7⟩
  bp : Field := ⟨6, 3⟩
  tb : Field := ⟨2, 2⟩
  wpE : Field := ⟨1, 1⟩
  srp1 : Field := ⟨0, 0⟩
  otpL : Field := ⟨7, 7⟩
  otpE : Field := ⟨6, 6⟩
  sr1L : Field := ⟨5, 5⟩
  eccE : Field := ⟨4, 4⟩
  buf : Field := ⟨3, 3⟩
  rsvd2 : Field := ⟨2, 0⟩
  rsvd3 : Field := ⟨7, 7⟩
  lutF : Field := ⟨6, 6⟩
  ecc : Field := ⟨5, 4⟩
  pFail : Field := ⟨3, 3⟩
  eFail : Field := ⟨2, 2⟩
  wel : Field := ⟨1, 1⟩
  busy : Field := ⟨0, 0⟩
deriving DecidableEq, Repr

/-- The Command Table's `OPC_*` parameters with the defaults of R140 (log 7). The last three are OPEN: `none`
says that the configuration does not bind them (U17, log 8). -/
structure Opcodes where
  reset : Byte := 0xFF#8
  jedec : Byte := 0x9F#8
  readReg : Byte := 0x0F#8
  writeReg : Byte := 0x1F#8
  writeEnable : Byte := 0x06#8
  writeDisable : Byte := 0x04#8
  blockErase : Byte := 0xD8#8
  loadProgramData : Byte := 0x02#8
  randomLoadProgramData : Byte := 0x84#8
  programExecute : Byte := 0x10#8
  pageDataRead : Byte := 0x13#8
  readData : Byte := 0x03#8
  powerDown : Option Byte := none
  releasePowerDown : Option Byte := none
  softwareReset : Option Byte := none
deriving DecidableEq, Repr

/-- `PROGRAM_SEMANTICS` of the reference device (R90). -/
inductive ProgramSemantics where
  | overwrite
  | andMask
deriving DecidableEq, Repr

/-- The reference device's parameters with the defaults of R90. -/
structure RefParams where
  busyPolls : Nat := 1
  programSemantics : ProgramSemantics := .overwrite
  jedecId0 : Byte := 0xEF#8
  jedecId1 : Byte := 0xAA#8
  jedecId2 : Byte := 0x22#8
  sr1Init : Byte := 0x7C#8
  sr2Init : Byte := 0x18#8
  initBad : List Nat := []
  failErase : List Nat := []
  failProgram : List Nat := []
  txnFail : List Nat := []
deriving DecidableEq, Repr

/-- Which device is attached: the normative oracle (R12) or the reference device (20_memory R90–R105, decision
D25). The choice is the model's own field (log 1). -/
inductive DeviceKind where
  | oracle
  | reference
deriving DecidableEq, Repr

/-- The configuration (R6). Configuration is not state (R42): no step changes it. -/
structure Config where
  pageCount : Nat := 131072
  spareSize : Nat := 64
  colWidth : ColWidth := .two
  opc : Opcodes := {}
  layout : SrLayout := {}
  rxFill : Byte := 0x00#8
  pollLimit : PollLimit := .unbounded
  eraseRange : EraseRange := .inclusive
  knownDevices : List (U16 × String) := [(0xAA22#16, "W25N02KV")]
  device : DeviceKind := .oracle
  ref : RefParams := {}
deriving DecidableEq, Repr

/-- The defaults of R6, with the normative device. -/
def Config.default : Config := {}

/-- `CAPACITY = PAGE_SIZE × PAGE_COUNT` (R6, R70). -/
def Config.capacity (c : Config) : Nat := pageSize * c.pageCount

/-- `BUF_SIZE = PAGE_SIZE + SPARE_SIZE` (R6, R72). -/
def Config.bufSize (c : Config) : Nat := pageSize + c.spareSize

/-- `COL_ADDR_BYTES` as a number (R6). -/
def Config.colBytes (c : Config) : Nat :=
  match c.colWidth with
  | .two => 2
  | .three => 3

/-! ## Free values: no body, so nothing can be proved of them -/

/-- What the normative device holds after a transaction (10_state R41): any registers, any contents (R12, U1–U5,
U8, U10, U15, U22). The lists are raw; the device operations bring them into canonical form. -/
structure Hidden where
  array : List Host.Cell
  buf : List Host.Cell
  sr1 : Byte
  sr2 : Byte
  sr3 : Byte
  busyLeft : Nat
  poweredDown : Bool
deriving DecidableEq, Repr, Inhabited

/-- Does the normative device's transaction number `n` fail, and with which error (R12)? FREE VALUE (log 2). -/
opaque Config.oracleFails : Nat → Option TErr

/-- Byte `i` that the normative device answers in transaction number `n` (R12). FREE VALUE (log 2). -/
opaque Config.oracleByte : Nat → Nat → Byte

/-- What the normative device holds after transaction number `n` (R12, R41). FREE VALUE (log 3). -/
opaque Config.oracleHidden : Nat → Hidden

/-- Which of the still unused bytes an OPEN opcode parameter is, when the configuration leaves it unbound (R140,
U17). FREE VALUE (log 8). -/
opaque Config.openOpcode : Nat → Nat

end Sys2Proof
end

