-- ==== Sys2Proof/Syntax.lean ====
section
/-! DEFINITION. The instructions (00_scope R3): the 21 requests of 30_encoding R121 and the 15 wire commands of
R140, one constructor per row of spec/opcode_table.json; the request descriptor of R120; the segments of a
transaction (R11); the records the decoder of 41_status_decoder yields. -/

namespace Sys2Proof

/-- One constructor per row of spec/opcode_table.json. The requests' operands are those of R122; a request with
data carries the data itself, whose length is the operand `B`. A wire command's operands are those of its frame
(R141–R155), as they travel on the wire. -/
inductive Instr where
  -- Driver Core requests (R121)
  | reset
  | jedec
  | wren
  | wrdi
  | rdreg (sel : Byte)
  | wrreg (sel val : Byte)
  | berase (page : U32)
  | pload (col : U32) (data : List Byte)
  | ploadr (col : U32) (data : List Byte)
  | pexec (page : U32)
  | pread (page : U32)
  | rdata (col len : U32)
  | unprot
  | pwrdn
  -- storage requests (R121)
  | sread (off len : U32)
  | swrite (off : U32) (data : List Byte)
  | serase (fromOff toOff : U32)
  | scap
  | bstat (off : U32)
  -- scanner requests (R121)
  | scanst
  | scannx
  -- wire commands (R140–R155)
  | resetWire
  | jedecWire
  | readRegWire (sel : Byte)
  | writeRegWire (sel val : Byte)
  | writeEnableWire
  | writeDisableWire
  | blockEraseWire (page : U24)
  | loadProgramDataWire (col : U24) (data : List Byte)
  | randomLoadProgramDataWire (col : U24) (data : List Byte)
  | programExecuteWire (page : U24)
  | pageDataReadWire (page : U24)
  | readDataWire (col : U24) (len : U32)
  | powerDownWire
  | releasePowerDownWire
  | softwareResetWire
deriving DecidableEq, Repr

/-- A request descriptor (R120): word 0 is `RSVD`, `VAL`, `SEL`, `OP` from its top byte down, word 1 is `A`, word 2
is `B`, and `DATA_IN` is the data stream. The descriptor latch of 10_state R31 holds one. -/
structure Descriptor where
  op : Byte
  sel : Byte
  val : Byte
  rsvd : Byte
  a : U32
  b : U32
  dataIn : List Byte
deriving DecidableEq, Repr

/-- A segment of a transaction (R11). -/
inductive Seg where
  | w (bytes : List Byte)   -- sent, what is received is discarded
  | r (n : Nat)             -- `n` fill bytes sent, `n` bytes kept
  | x (bytes : List Byte)   -- sent, as many bytes kept
deriving DecidableEq, Repr

/-- How an instruction is spelled: a request as a descriptor (R120), a wire command as the byte stream of one
chip-select window (R37). -/
inductive Encoded where
  | descriptor (d : Descriptor)
  | stream (bytes : List Byte)
deriving DecidableEq, Repr

/-- Status1 decoded (R50, R201). -/
structure Status1 where
  srp0 : BitVec 1
  bp : BitVec 4
  tb : BitVec 1
  wpE : BitVec 1
  srp1 : BitVec 1
deriving DecidableEq, Repr

/-- Status2 decoded (R51, R204). -/
structure Status2 where
  otpL : BitVec 1
  otpE : BitVec 1
  sr1L : BitVec 1
  eccE : BitVec 1
  buf : BitVec 1
  rsvd2 : BitVec 3
deriving DecidableEq, Repr

/-- Status3 decoded (R52, R206). `ecc` is a raw 2-bit value that no rule interprets (R209). -/
structure Status3 where
  rsvd3 : BitVec 1
  lutF : BitVec 1
  ecc : BitVec 2
  pFail : BitVec 1
  eFail : BitVec 1
  wel : BitVec 1
  busy : BitVec 1
deriving DecidableEq, Repr

/-- The name part of a decoded identity (R208). -/
inductive DeviceName where
  | known (name : String)
  | unknown
deriving DecidableEq, Repr

/-- The decoded JEDEC identity (R208). -/
structure JedecId where
  mfr : Byte
  code : U16
  name : DeviceName
deriving DecidableEq, Repr

end Sys2Proof
end

