-- ==== Sys2Proof/Machine/Flags.lean ====
section
/-! DEFINITION. The status-register and JEDEC decoder (41_status_decoder R200–R209), over the layout parameter of
10_state R50–R52. -/

namespace Sys2Proof.Machine

/-- `mask(hi, lo) = ((1 << (hi − lo + 1)) − 1) << lo` (R200). -/
def fieldMask (f : Field) : Byte := ((1#8 <<< (f.hi - f.lo + 1)) - 1#8) <<< f.lo

/-- `get(b, hi, lo)` (R200). -/
def fieldGet (b : Byte) (f : Field) : Byte := (b &&& fieldMask f) >>> f.lo

/-- `set(b, hi, lo, v)` (R200): the bits of `v` above the field's width are dropped. -/
def fieldSet (b : Byte) (f : Field) (v : Byte) : Byte :=
  (b &&& ~~~fieldMask f) ||| ((v <<< f.lo) &&& fieldMask f)

/-- A field's value at the field's own width. -/
def fieldValue (w : Nat) (b : Byte) (f : Field) : BitVec w := (fieldGet b f).setWidth w

/-- A field's value placed in an otherwise zero byte. -/
def fieldPlace {w : Nat} (v : BitVec w) (f : Field) : Byte := v.setWidth 8 <<< f.lo

/-- `decode_sr1` (R201). -/
def decodeSr1 (l : SrLayout) (b : Byte) : Status1 :=
  { srp0 := fieldValue 1 b l.srp0, bp := fieldValue 4 b l.bp, tb := fieldValue 1 b l.tb,
    wpE := fieldValue 1 b l.wpE, srp1 := fieldValue 1 b l.srp1 }

/-- `encode_sr1` (R202). -/
def encodeSr1 (l : SrLayout) (r : Status1) : Byte :=
  fieldPlace r.srp0 l.srp0 ||| fieldPlace r.bp l.bp ||| fieldPlace r.tb l.tb ||| fieldPlace r.wpE l.wpE |||
    fieldPlace r.srp1 l.srp1

/-- The single block-protect bits `bp3 … bp0`, views of `bp` (R201): bit `i` of the field. -/
def bpBit (r : Status1) (i : Nat) : Bool := r.bp.getLsbD i

/-- `clear_bp` (R203): `set(b, bp, 0)`, the other fields preserved (decision D5). -/
def clearBp (l : SrLayout) (b : Byte) : Byte := fieldSet b l.bp 0x00#8

/-- `decode_sr2` (R204). -/
def decodeSr2 (l : SrLayout) (b : Byte) : Status2 :=
  { otpL := fieldValue 1 b l.otpL, otpE := fieldValue 1 b l.otpE, sr1L := fieldValue 1 b l.sr1L,
    eccE := fieldValue 1 b l.eccE, buf := fieldValue 1 b l.buf, rsvd2 := fieldValue 3 b l.rsvd2 }

/-- `encode_sr2` (R205). -/
def encodeSr2 (l : SrLayout) (r : Status2) : Byte :=
  fieldPlace r.otpL l.otpL ||| fieldPlace r.otpE l.otpE ||| fieldPlace r.sr1L l.sr1L ||| fieldPlace r.eccE l.eccE |||
    fieldPlace r.buf l.buf ||| fieldPlace r.rsvd2 l.rsvd2

/-- `decode_sr3` (R206). -/
def decodeSr3 (l : SrLayout) (b : Byte) : Status3 :=
  { rsvd3 := fieldValue 1 b l.rsvd3, lutF := fieldValue 1 b l.lutF, ecc := fieldValue 2 b l.ecc,
    pFail := fieldValue 1 b l.pFail, eFail := fieldValue 1 b l.eFail, wel := fieldValue 1 b l.wel,
    busy := fieldValue 1 b l.busy }

/-- `encode_sr3` (R207). -/
def encodeSr3 (l : SrLayout) (r : Status3) : Byte :=
  fieldPlace r.rsvd3 l.rsvd3 ||| fieldPlace r.lutF l.lutF ||| fieldPlace r.ecc l.ecc ||| fieldPlace r.pFail l.pFail |||
    fieldPlace r.eFail l.eFail ||| fieldPlace r.wel l.wel ||| fieldPlace r.busy l.busy

/-- The first entry of `KNOWN_DEVICES` with this code (R208). -/
def lookupName (code : U16) : List (U16 × String) → DeviceName
  | [] => .unknown
  | (k, name) :: rest => if k = code then .known name else lookupName code rest

/-- `jedec_decode` (R208): the code is big-endian, recognition reads the code alone (decision D18), and an unknown
code is no error. -/
def jedecDecode (known : List (U16 × String)) (b0 b1 b2 : Byte) : JedecId :=
  let code : U16 := b1 ++ b2
  { mfr := b0, code := code, name := lookupName code known }

end Sys2Proof.Machine
end

