-- ==== Sys2Proof/Machine/Codecs.lean ====
section
/-! DEFINITION. The address codecs (40_address_codecs R170–R181) and the big-endian byte lists of 00_scope R10. -/

namespace Sys2Proof.Machine

/-- `be_2` (R10). -/
def be2 (v : U16) : List Byte := [v.extractLsb' 8 8, v.extractLsb' 0 8]

/-- `be_3` (R10). -/
def be3 (v : U24) : List Byte := [v.extractLsb' 16 8, v.extractLsb' 8 8, v.extractLsb' 0 8]

/-- `from_byte_address` (R170): floor to a page. -/
def fromByteAddress (off : U32) : U32 := off >>> 11

/-- `to_byte_address` (R171): wrapping. -/
def toByteAddress (p : U32) : U32 := p <<< 11

/-- `increment_page` (R173): the address before the increment, and the cursor after it. -/
def incrementPage (cur : U32) : U32 × U32 := (cur, cur + 1#32)

/-- `increment_block` (R174): the address before the increment, and the cursor after it. -/
def incrementBlock (cur : U32) : U32 × U32 := (cur, cur + 64#32)

/-- The page operand as it travels on the wire: `p[23:0]` (R124, R175). -/
def wirePage (p : U32) : U24 := p.setWidth 24

/-- The column operand as it travels on the wire: its low `COL_ADDR_BYTES` bytes (R124, R176). -/
def wireCol (c : Config) (col : U32) : U24 :=
  match c.colWidth with
  | .two => (col.setWidth 16).setWidth 24
  | .three => col.setWidth 24

/-- `ser_page` (R175): three bytes, most significant first. -/
def serPage (p : U32) : List Byte := be3 (wirePage p)

/-- A column on the wire, in `COL_ADDR_BYTES` bytes (R176). -/
def colStream (c : Config) (col : U24) : List Byte :=
  match c.colWidth with
  | .two => be2 (col.setWidth 16)
  | .three => be3 col

/-- `ser_col` (R176). -/
def serCol (c : Config) (col : U32) : List Byte := colStream c (wireCol c col)

/-- The state of `blocks(start, end)` (R177). -/
structure BlockGen where
  cur : U32
  last : U32
  done : Bool
deriving DecidableEq, Repr

/-- `blocks(start, end)` (R177). -/
def blocks (start last : U32) : BlockGen := { cur := start, last := last, done := false }

/-- `next()` of the generator (R177); the `done` guard keeps a wrap from restarting it (decision D11). -/
def blocksNext (g : BlockGen) : Option U32 × BlockGen :=
  if g.done || decide (g.last.toNat < g.cur.toNat) then (none, { g with done := true })
  else if 2 ^ 32 ≤ g.cur.toNat + 64 then (some g.cur, { g with done := true })
  else (some g.cur, { g with cur := g.cur + 64#32 })

/-- The first `n` answers of the generator, up to its first `None` (R178). -/
def blocksTake : Nat → BlockGen → List U32
  | 0, _ => []
  | n + 1, g =>
    match blocksNext g with
    | (some p, g') => p :: blocksTake n g'
    | (none, _) => []

/-- `block_of` (R179). -/
def blockOf (p : U32) : U32 := p >>> 6

/-- `first_page` (R179): wrapping. -/
def firstPage (b : U32) : U32 := b <<< 6

/-- `page_in_block` (R179). -/
def pageInBlock (p : U32) : BitVec 6 := p.setWidth 6

/-- A page is block-aligned (R179). -/
def pageBlockAligned (p : U32) : Bool := pageInBlock p == 0#6

/-- A byte offset is block-aligned (R179). -/
def offsetBlockAligned (off : U32) : Bool := off.toNat % blockSize == 0

/-- `page_valid` (R180). -/
def pageValid (c : Config) (p : U32) : Bool := decide (p.toNat < c.pageCount)

/-- `col_valid` (R180). -/
def colValid (c : Config) (col : U32) : Bool := decide (col.toNat < c.bufSize)

/-- `column_of` (R181): `off[10:0]`. -/
def columnOf (off : U32) : BitVec 11 := off.setWidth 11

end Sys2Proof.Machine
end

