-- ==== Sys2Proof/Machine/CommandTable.lean ====
section
/-! DEFINITION. The Command Table (30_encoding R140): the byte of each device command, the OPEN parameters
included (R153–R155, R158, U17, log 8). -/

namespace Sys2Proof.Machine

/-- The opcode parameters that a configuration binds: the twelve with defaults, then the OPEN ones it names. -/
def boundOpcodes (o : Opcodes) : List Byte :=
  [o.reset, o.jedec, o.readReg, o.writeReg, o.writeEnable, o.writeDisable, o.blockErase, o.loadProgramData,
    o.randomLoadProgramData, o.programExecute, o.pageDataRead, o.readData]
  ++ o.powerDown.toList ++ o.releasePowerDown.toList ++ o.softwareReset.toList

/-- The bytes that a list of opcodes leaves free. -/
def unusedBytes (used : List Byte) : List Byte :=
  ((List.range 256).map (BitVec.ofNat 8)).filter fun b => !used.contains b

/-- One of the free bytes, the choice being the free value `k`. -/
def pickUnused (used : List Byte) (k : Nat) : Byte :=
  (unusedBytes used).getD (k % (unusedBytes used).length) 0x00#8

/-- `OPC_POWER_DOWN` (R140, R153): bound, or a free choice that keeps R158. -/
def powerDownOpcode (c : Config) : Byte :=
  match c.opc.powerDown with
  | some b => b
  | none => pickUnused (boundOpcodes c.opc) (Config.openOpcode 0)

/-- `OPC_RELEASE_POWER_DOWN` (R140, R154): bound, or a free choice that keeps R158. -/
def releaseOpcode (c : Config) : Byte :=
  match c.opc.releasePowerDown with
  | some b => b
  | none => pickUnused (boundOpcodes c.opc ++ [powerDownOpcode c]) (Config.openOpcode 1)

/-- `OPC_SOFTWARE_RESET` (R140, R155): bound, or a free choice that keeps R158. -/
def softwareResetOpcode (c : Config) : Byte :=
  match c.opc.softwareReset with
  | some b => b
  | none => pickUnused (boundOpcodes c.opc ++ [powerDownOpcode c, releaseOpcode c]) (Config.openOpcode 2)

/-- The whole Command Table: its fifteen bytes (R140, R158). -/
def commandTable (c : Config) : List Byte :=
  [c.opc.reset, c.opc.jedec, c.opc.readReg, c.opc.writeReg, c.opc.writeEnable, c.opc.writeDisable,
    c.opc.blockErase, c.opc.loadProgramData, c.opc.randomLoadProgramData, c.opc.programExecute,
    c.opc.pageDataRead, c.opc.readData, powerDownOpcode c, releaseOpcode c, softwareResetOpcode c]

end Sys2Proof.Machine
end

