-- ==== Sys2Proof/WellFormed.lean ====
section
/-! DEFINITION. The checks: which configurations the spec gives a meaning to (00_scope R6, R7, 30_encoding R158,
41_status_decoder R200, R208), and which instruction terms stand for an encoding (30_encoding R120, R123, R124). -/

namespace Sys2Proof

/-! ## Configurations -/

/-- No byte occurs twice (R158 "pairwise distinct bytes"). -/
def distinctBytes : List Byte → Bool
  | [] => true
  | b :: bs => !bs.contains b && distinctBytes bs

/-- R158: the `OPC_*` parameters that the configuration binds are pairwise distinct, and `OPC_JEDEC = 0x9F`. The
unbound ones are distinct by the way they are chosen (log 8). -/
def Config.opcodesOk (c : Config) : Bool :=
  distinctBytes (Machine.boundOpcodes c.opc) && c.opc.jedec == 0x9F#8

/-- R7: whole blocks, at least one, and a capacity that fits in 32 bits. -/
def Config.geometryOk (c : Config) : Bool :=
  decide (64 ≤ c.pageCount) && decide (c.pageCount % 64 = 0) && decide (c.pageCount * pageSize ≤ 2 ^ 32 - 1)

/-- A field of the stated width inside a byte (R200: `7 ≥ hi ≥ lo ≥ 0`). -/
def Field.fits (f : Field) (width : Nat) : Bool :=
  decide (f.lo ≤ f.hi) && decide (f.hi ≤ 7) && decide (f.hi + 1 - f.lo = width)

/-- Every bit of the byte belongs to exactly one of the fields (R201 "the fields cover all 8 bits with no
padding"). -/
def coverByte (fs : List Field) : Bool :=
  (List.range 8).all fun i => (fs.filter fun f => decide (f.lo ≤ i) && decide (i ≤ f.hi)).length == 1

/-- The register layout is one: the widths of R50–R52, and each register's fields cover its byte (log 9). -/
def SrLayout.ok (l : SrLayout) : Bool :=
  l.srp0.fits 1 && l.bp.fits 4 && l.tb.fits 1 && l.wpE.fits 1 && l.srp1.fits 1 &&
  l.otpL.fits 1 && l.otpE.fits 1 && l.sr1L.fits 1 && l.eccE.fits 1 && l.buf.fits 1 && l.rsvd2.fits 3 &&
  l.rsvd3.fits 1 && l.lutF.fits 1 && l.ecc.fits 2 && l.pFail.fits 1 && l.eFail.fits 1 && l.wel.fits 1 &&
  l.busy.fits 1 &&
  coverByte [l.srp0, l.bp, l.tb, l.wpE, l.srp1] &&
  coverByte [l.otpL, l.otpE, l.sr1L, l.eccE, l.buf, l.rsvd2] &&
  coverByte [l.rsvd3, l.lutF, l.ecc, l.pFail, l.eFail, l.wel, l.busy]

/-- R6: `POLL_LIMIT` is `Unbounded` or an integer `N ≥ 1`; as a count it is a u32 (R9). -/
def PollLimit.ok : PollLimit → Bool
  | .unbounded => true
  | .limit n => decide (1 ≤ n) && decide (n < 2 ^ 32)

/-- R208: `KNOWN_DEVICES` holds `0xAA22` and does not hold `0x0000`. -/
def Config.knownOk (c : Config) : Bool :=
  (c.knownDevices.map Prod.fst).contains 0xAA22#16 && !(c.knownDevices.map Prod.fst).contains 0x0000#16

/-- The configurations the model gives a meaning to; the others are refused (R7, R158, U20, log 9). -/
def Config.valid (c : Config) : Bool :=
  c.geometryOk && c.opcodesOk && c.layout.ok && c.pollLimit.ok && c.knownOk

/-! ## Instructions -/

/-- Does a column operand fit the column bytes of the wire (R124, R176)? -/
def fitsColumn (c : Config) (col : U24) : Bool :=
  decide (col.toNat < 2 ^ (8 * c.colBytes))

/-- Does a data stream's length fit the operand `B` (R120: "its length must equal `B`")? -/
def fitsLength (data : List Byte) : Bool :=
  decide (data.length < 2 ^ 32)

/-- The terms that stand for an encoding. The typed operands leave two checks: the length of a request's data
(R120, R123), and a column on the wire (R124). -/
def Instr.wf (c : Config) : Instr → Bool
  | .reset => true
  | .jedec => true
  | .wren => true
  | .wrdi => true
  | .rdreg _ => true
  | .wrreg _ _ => true
  | .berase _ => true
  | .pload _ data => fitsLength data
  | .ploadr _ data => fitsLength data
  | .pexec _ => true
  | .pread _ => true
  | .rdata _ _ => true
  | .unprot => true
  | .pwrdn => true
  | .sread _ _ => true
  | .swrite _ data => fitsLength data
  | .serase _ _ => true
  | .scap => true
  | .bstat _ => true
  | .scanst => true
  | .scannx => true
  | .resetWire => true
  | .jedecWire => true
  | .readRegWire _ => true
  | .writeRegWire _ _ => true
  | .writeEnableWire => true
  | .writeDisableWire => true
  | .blockEraseWire _ => true
  | .loadProgramDataWire col _ => fitsColumn c col
  | .randomLoadProgramDataWire col _ => fitsColumn c col
  | .programExecuteWire _ => true
  | .pageDataReadWire _ => true
  | .readDataWire col _ => fitsColumn c col
  | .powerDownWire => true
  | .releasePowerDownWire => true
  | .softwareResetWire => true

end Sys2Proof
end

