-- ==== Sys2Proof/Decode.lean ====
section
/-! DEFINITION. Decoding and encoding: request descriptors (30_encoding R120–R124), wire frames (R141–R157), and
the table word of the host's interface. -/

namespace Sys2Proof

open Machine

/-! ## Wire frames -/

/-- The bytes the encoder sends in a segment (R11). -/
def Seg.sent (fill : Byte) : Seg → List Byte
  | .w bytes => bytes
  | .r n => List.replicate n fill
  | .x bytes => bytes

/-- The byte stream of a transaction, one chip-select window (R11, R37). -/
def streamOf (fill : Byte) (segs : List Seg) : List Byte := segs.flatMap (Seg.sent fill)

/-- The bytes the encoder keeps of what the device answers in the window (R11). -/
def keptOf : List Seg → List Byte → List Byte
  | [], _ => []
  | .w bytes :: rest, m => keptOf rest (m.drop bytes.length)
  | .r n :: rest, m => m.take n ++ keptOf rest (m.drop n)
  | .x bytes :: rest, m => m.take bytes.length ++ keptOf rest (m.drop bytes.length)

/-- How many bytes a segment keeps (R11). -/
def Seg.keeps : Seg → Nat
  | .w _ => 0
  | .r n => n
  | .x bytes => bytes.length

/-- How many bytes a transaction keeps (R11, R156). -/
def keptLength (segs : List Seg) : Nat := (segs.map Seg.keeps).sum

/-- The frame of a wire command (R141–R153). The two Command Table constants that no request sends have no frame
(R154, R155): for them, as for a request, the list is empty. -/
def frame (c : Config) : Instr → List Seg
  | .resetWire => [.w [c.opc.reset]]
  | .jedecWire => [.w [c.opc.jedec, 0x00#8], .r 3]
  | .readRegWire sel => [.x [c.opc.readReg, sel, dummyByte]]
  | .writeRegWire sel val => [.w [c.opc.writeReg, sel, val]]
  | .writeEnableWire => [.w [c.opc.writeEnable]]
  | .writeDisableWire => [.w [c.opc.writeDisable]]
  | .blockEraseWire page => [.w (c.opc.blockErase :: be3 page)]
  | .loadProgramDataWire col data => [.w (c.opc.loadProgramData :: (colStream c col ++ data))]
  | .randomLoadProgramDataWire col data => [.w (c.opc.randomLoadProgramData :: (colStream c col ++ data))]
  | .programExecuteWire page => [.w (c.opc.programExecute :: be3 page)]
  | .pageDataReadWire page => [.w (c.opc.pageDataRead :: be3 page)]
  | .readDataWire col len => [.w (c.opc.readData :: (colStream c col ++ [dummyByte])), .r len.toNat]
  | .powerDownWire => [.w [powerDownOpcode c]]
  | .releasePowerDownWire => []
  | .softwareResetWire => []
  | .reset => []
  | .jedec => []
  | .wren => []
  | .wrdi => []
  | .rdreg _ => []
  | .wrreg _ _ => []
  | .berase _ => []
  | .pload _ _ => []
  | .ploadr _ _ => []
  | .pexec _ => []
  | .pread _ => []
  | .rdata _ _ => []
  | .unprot => []
  | .pwrdn => []
  | .sread _ _ => []
  | .swrite _ _ => []
  | .serase _ _ => []
  | .scap => []
  | .bstat _ => []
  | .scanst => []
  | .scannx => []

/-! ## Decoding -/

/-- Why a spelling spells no instruction: the three of R123, and what a receiver cannot read on the bus (R156,
R157). -/
inductive DecodeError where
  | unassignedOp        -- R121, R123
  | reservedBits        -- R120, R123: `RSVD ≠ 0`
  | lengthMismatch      -- R123: `len(DATA_IN) ≠ B`
  | emptyFrame          -- no byte in the window
  | unknownOpcode       -- a first byte outside the Command Table (R157)
  | frameLength         -- not the length the opcode fixes (R156)
deriving DecidableEq, Repr

/-- A request that takes data decodes only when the stream's length equals `B` (R120, R123). -/
def withData (d : Descriptor) (i : Instr) : Except DecodeError Instr :=
  if d.dataIn.length = d.b.toNat then .ok i else .error .lengthMismatch

/-- Decoding a request descriptor (R120–R124): the fields a request does not use are ignored, `RSVD` excepted. -/
def decodeRequest (d : Descriptor) : Except DecodeError Instr :=
  if d.rsvd ≠ 0x00#8 then .error .reservedBits
  else if d.op = 0x01#8 then .ok .reset
  else if d.op = 0x02#8 then .ok .jedec
  else if d.op = 0x03#8 then .ok .wren
  else if d.op = 0x04#8 then .ok .wrdi
  else if d.op = 0x05#8 then .ok (.rdreg d.sel)
  else if d.op = 0x06#8 then .ok (.wrreg d.sel d.val)
  else if d.op = 0x07#8 then .ok (.berase d.a)
  else if d.op = 0x08#8 then withData d (.pload d.a d.dataIn)
  else if d.op = 0x09#8 then withData d (.ploadr d.a d.dataIn)
  else if d.op = 0x0A#8 then .ok (.pexec d.a)
  else if d.op = 0x0B#8 then .ok (.pread d.a)
  else if d.op = 0x0C#8 then .ok (.rdata d.a d.b)
  else if d.op = 0x0D#8 then .ok .unprot
  else if d.op = 0x0E#8 then .ok .pwrdn
  else if d.op = 0x20#8 then .ok (.sread d.a d.b)
  else if d.op = 0x21#8 then withData d (.swrite d.a d.dataIn)
  else if d.op = 0x22#8 then .ok (.serase d.a d.b)
  else if d.op = 0x23#8 then .ok .scap
  else if d.op = 0x24#8 then .ok (.bstat d.a)
  else if d.op = 0x30#8 then .ok .scanst
  else if d.op = 0x31#8 then .ok .scannx
  else .error .unassignedOp

/-- Word 0 of a descriptor (R120). -/
def word0 (d : Descriptor) : U32 := d.rsvd ++ d.val ++ d.sel ++ d.op

/-- A descriptor from its three words and its data stream (R120). -/
def ofWords (w0 w1 w2 : U32) (dataIn : List Byte) : Descriptor :=
  { op := w0.extractLsb' 0 8, sel := w0.extractLsb' 8 8, val := w0.extractLsb' 16 8, rsvd := w0.extractLsb' 24 8,
    a := w1, b := w2, dataIn := dataIn }

/-- The column at the head of a frame's operand bytes, and the bytes after it (R148, R152, R176). -/
def takeCol (c : Config) : List Byte → Option (U24 × List Byte)
  | [] => none
  | x :: rest =>
    match c.colWidth, rest with
    | .two, y :: t => some ((0x00#8 ++ x ++ y : U24), t)
    | .three, y :: z :: t => some ((x ++ y ++ z : U24), t)
    | _, _ => none

/-- A frame that is its opcode alone (R141, R145, R146, R153). -/
def noOperand (i : Instr) : List Byte → Except DecodeError Instr
  | [] => .ok i
  | _ :: _ => .error .frameLength

/-- A frame whose operand is a page (R147, R150, R151). -/
def pageOperand (f : U24 → Instr) : List Byte → Except DecodeError Instr
  | [x, y, z] => .ok (f (x ++ y ++ z : U24))
  | _ => .error .frameLength

/-- A load's frame: column, then data up to the end of the window (R148, R149, R156). -/
def loadOperand (c : Config) (f : U24 → List Byte → Instr) (bytes : List Byte) : Except DecodeError Instr :=
  match takeCol c bytes with
  | some (col, data) => .ok (f col data)
  | none => .error .frameLength

/-- `READ_DATA`'s frame: column, dummy, then as many bytes as the window clocks in (R152, R156). The receiver
ignores the values of the dummy and of the fill bytes (U13). -/
def readOperand (c : Config) (bytes : List Byte) : Except DecodeError Instr :=
  match takeCol c bytes with
  | some (col, _ :: fill) => .ok (.readDataWire col (BitVec.ofNat 32 fill.length))
  | _ => .error .frameLength

/-- Reading a frame as its receiver does, by its first byte and its length (R156). -/
def decodeWire (c : Config) : List Byte → Except DecodeError Instr
  | [] => .error .emptyFrame
  | op :: rest =>
    if op = c.opc.reset then noOperand .resetWire rest
    else if op = c.opc.jedec then (if rest.length = 4 then .ok .jedecWire else .error .frameLength)
    else if op = c.opc.readReg then
      match rest with
      | [sel, _] => .ok (.readRegWire sel)
      | _ => .error .frameLength
    else if op = c.opc.writeReg then
      match rest with
      | [sel, val] => .ok (.writeRegWire sel val)
      | _ => .error .frameLength
    else if op = c.opc.writeEnable then noOperand .writeEnableWire rest
    else if op = c.opc.writeDisable then noOperand .writeDisableWire rest
    else if op = c.opc.blockErase then pageOperand .blockEraseWire rest
    else if op = c.opc.loadProgramData then loadOperand c .loadProgramDataWire rest
    else if op = c.opc.randomLoadProgramData then loadOperand c .randomLoadProgramDataWire rest
    else if op = c.opc.programExecute then pageOperand .programExecuteWire rest
    else if op = c.opc.pageDataRead then pageOperand .pageDataReadWire rest
    else if op = c.opc.readData then readOperand c rest
    else if op = powerDownOpcode c then noOperand .powerDownWire rest
    else if op = releaseOpcode c then noOperand .releasePowerDownWire rest
    else if op = softwareResetOpcode c then noOperand .softwareResetWire rest
    else .error .unknownOpcode

/-- Decoding of either spelling. -/
def decode (c : Config) : Encoded → Except DecodeError Instr
  | .descriptor d => decodeRequest d
  | .stream bytes => decodeWire c bytes

/-! ## Encoding -/

/-- A request without operands (R122): the fields it ignores are zero. -/
def plainRequest (op : Byte) : Descriptor :=
  { op := op, sel := 0#8, val := 0#8, rsvd := 0#8, a := 0#32, b := 0#32, dataIn := [] }

/-- A request with the operand `A`, and `B` (R122). -/
def addressRequest (op : Byte) (a b : U32) : Descriptor := { plainRequest op with a := a, b := b }

/-- A request with data: `B` is its length (R120, R122). -/
def dataRequest (op : Byte) (a : U32) (data : List Byte) : Descriptor :=
  { plainRequest op with a := a, b := BitVec.ofNat 32 data.length, dataIn := data }

/-- The spelling of an instruction: the request codes of R121 with the operand fields of R122, the frames of
R141–R153, and for the two Command Table constants without a frame the table's byte (R140, R154, R155; log 16). -/
def encode (c : Config) : Instr → Encoded
  | .reset => .descriptor (plainRequest 0x01#8)
  | .jedec => .descriptor (plainRequest 0x02#8)
  | .wren => .descriptor (plainRequest 0x03#8)
  | .wrdi => .descriptor (plainRequest 0x04#8)
  | .rdreg sel => .descriptor { plainRequest 0x05#8 with sel := sel }
  | .wrreg sel val => .descriptor { plainRequest 0x06#8 with sel := sel, val := val }
  | .berase page => .descriptor (addressRequest 0x07#8 page 0#32)
  | .pload col data => .descriptor (dataRequest 0x08#8 col data)
  | .ploadr col data => .descriptor (dataRequest 0x09#8 col data)
  | .pexec page => .descriptor (addressRequest 0x0A#8 page 0#32)
  | .pread page => .descriptor (addressRequest 0x0B#8 page 0#32)
  | .rdata col len => .descriptor (addressRequest 0x0C#8 col len)
  | .unprot => .descriptor (plainRequest 0x0D#8)
  | .pwrdn => .descriptor (plainRequest 0x0E#8)
  | .sread off len => .descriptor (addressRequest 0x20#8 off len)
  | .swrite off data => .descriptor (dataRequest 0x21#8 off data)
  | .serase fromOff toOff => .descriptor (addressRequest 0x22#8 fromOff toOff)
  | .scap => .descriptor (plainRequest 0x23#8)
  | .bstat off => .descriptor (addressRequest 0x24#8 off 0#32)
  | .scanst => .descriptor (plainRequest 0x30#8)
  | .scannx => .descriptor (plainRequest 0x31#8)
  | .resetWire => .stream (streamOf c.rxFill (frame c .resetWire))
  | .jedecWire => .stream (streamOf c.rxFill (frame c .jedecWire))
  | .readRegWire sel => .stream (streamOf c.rxFill (frame c (.readRegWire sel)))
  | .writeRegWire sel val => .stream (streamOf c.rxFill (frame c (.writeRegWire sel val)))
  | .writeEnableWire => .stream (streamOf c.rxFill (frame c .writeEnableWire))
  | .writeDisableWire => .stream (streamOf c.rxFill (frame c .writeDisableWire))
  | .blockEraseWire page => .stream (streamOf c.rxFill (frame c (.blockEraseWire page)))
  | .loadProgramDataWire col data => .stream (streamOf c.rxFill (frame c (.loadProgramDataWire col data)))
  | .randomLoadProgramDataWire col data =>
    .stream (streamOf c.rxFill (frame c (.randomLoadProgramDataWire col data)))
  | .programExecuteWire page => .stream (streamOf c.rxFill (frame c (.programExecuteWire page)))
  | .pageDataReadWire page => .stream (streamOf c.rxFill (frame c (.pageDataReadWire page)))
  | .readDataWire col len => .stream (streamOf c.rxFill (frame c (.readDataWire col len)))
  | .powerDownWire => .stream (streamOf c.rxFill (frame c .powerDownWire))
  | .releasePowerDownWire => .stream [releaseOpcode c]
  | .softwareResetWire => .stream [softwareResetOpcode c]

/-! ## The host's table word

A table row of 8 bits is a wire command's opcode byte; a wider row is word 0 of a request descriptor and what
follows it (log 20). -/

/-- Bits `8 k + 7 … 8 k` of a table word. -/
def wordByte (w k : Nat) : Byte := BitVec.ofNat 8 (w >>> (8 * k))

/-- How many operand bytes follow an opcode in its shortest frame (R156). -/
def operandBytes (c : Config) (op : Byte) : Nat :=
  if op = c.opc.jedec then 4
  else if op = c.opc.readReg then 2
  else if op = c.opc.writeReg then 2
  else if op = c.opc.blockErase then 3
  else if op = c.opc.loadProgramData then c.colBytes
  else if op = c.opc.randomLoadProgramData then c.colBytes
  else if op = c.opc.programExecute then 3
  else if op = c.opc.pageDataRead then 3
  else if op = c.opc.readData then c.colBytes + 1
  else 0

/-- A table word of one byte as a frame: the opcode, then operand bytes of zero. -/
def wordStream (c : Config) (w : Nat) : List Byte :=
  wordByte w 0 :: List.replicate (operandBytes c (wordByte w 0)) 0x00#8

/-- A table word as a request descriptor: words 0, 1 and 2, then the data stream's bytes. -/
def wordDescriptor (nbits w : Nat) : Descriptor :=
  ofWords (BitVec.ofNat 32 w) (BitVec.ofNat 32 (w >>> 32)) (BitVec.ofNat 32 (w >>> 64))
    ((List.range ((nbits - 96) / 8)).map fun k => wordByte w (12 + k))

/-- The instruction the decoder reads from a row's bits, under the default configuration. -/
def decodeTableWord (nbits w : Nat) : Option Instr :=
  if nbits ≤ 8 then (decodeWire Config.default (wordStream Config.default w)).toOption
  else (decodeRequest (wordDescriptor nbits w)).toOption

end Sys2Proof
end

