-- ==== Sys2Proof/Machine/State.lean ====
section
/-! DEFINITION. The state of the machine as plain data (10_state R30–R42, 20_memory R91): the encoder's latches and
sequencer, the transport between encoder and device, the device, and the host's side; the reasons a step can stop;
the state after reset (R60, R330). -/

namespace Sys2Proof.Machine

/-! ## Why a step stops -/

/-- The machine's faults. The spec gives the encoder none (60_exceptions R310: every abnormal outcome is an error
result), so each of these is for a state that no run reaches (log 19). All are safe: the model stops. -/
inductive Fault where
  /-- Raised by a request's turn when no answer of the device stands in `rx`. Safe. -/
  | noAnswer
  /-- Raised by a request's turn when the sequencer holds no transaction. Safe. -/
  | noTransaction
  /-- Raised when an answer is shorter than the frame keeps (R11 gives every answer its length). Safe. -/
  | shortAnswer
deriving DecidableEq, Repr

/-- The machine's refusals. -/
inductive Refusal where
  /-- Raised by `exec` for an instruction that has no meaning yet. Safe. -/
  | notModelled (mnemonic : String)
  /-- Raised by `step`: the configuration is one the spec refuses (R7, R158, U20; log 9). Safe. -/
  | badConfig
  /-- Raised by the reference device while `busy_left > 0`, for any transaction but a Status3 read (R93, U21).
  Safe. -/
  | deviceBusy
  /-- Raised by the reference device while powered down, for every transaction (R93). Safe. -/
  | devicePoweredDown
deriving DecidableEq, Repr

/-! ## Results and errors -/

/-- The error kinds with their information (60_exceptions R300, R301). -/
inductive Err where
  | transport (t : TErr)
  | writeEnable (snapshot : Byte)
  | writeDisable (snapshot : Byte)
  | eraseFailure (page : U32)
  | programFailure (page : U32)
  | blockProtect (residual : BitVec 4)
  | notAligned (off : U32)
  | outOfBounds (off : U32)
  | pollTimeout (reads : Nat)
  | badRequest (word : U32)
deriving DecidableEq, Repr

/-- `Good` or `Failed` (43_storage_ops R266). -/
inductive BlockStatus where
  | good
  | failed
deriving DecidableEq, Repr

/-- What one `SCAN_NEXT` yields (44_bad_block_scanner R291): `Item(Ok(p, rec))`, `Item(Err(e))` or `End`. -/
inductive ScanItem where
  | found (page : U32) (record : List Byte)
  | failed (e : Err)
  | finished
deriving DecidableEq, Repr

/-- The payloads of `Ok` (R14, 30_encoding R127). -/
inductive Payload where
  | unit
  | register (v : Byte)
  | identity (id : JedecId)
  | bytes (bs : List Byte)
  | number (n : Nat)
  | blockStatus (st : BlockStatus)
  | item (it : ScanItem)
deriving DecidableEq, Repr

/-- The result of a request: exactly one `Ok` or `Err` (R14). -/
inductive Result where
  | ok (p : Payload)
  | err (e : Err)
deriving DecidableEq, Repr

/-- The result latch (10_state R32): `KIND`, `INFO`, `DATA_OUT`, and the structured result. -/
structure ResultLatch where
  kind : Byte
  info : U32
  dataOut : List Byte
  outcome : Option Result
deriving DecidableEq, Repr

/-! ## The sequencer -/

/-- `PHASE` (10_state R33). -/
inductive Phase where
  | idle
  | busy
deriving DecidableEq, Repr

/-- The failure flag a poll's caller checks in the last snapshot (42_driver_primitives R216, R219, R220). -/
inductive PollCheck where
  | nothing
  | eraseFlag (page : U32)
  | programFlag (page : U32)
deriving DecidableEq, Repr

/-- One transaction of a request's pseudocode, with the check made on its answer (42_driver_primitives). -/
inductive Op where
  /-- `Txn(frame)?`: the answer is discarded. -/
  | send (cmd : Instr)
  /-- `read_reg(sel)?` as the body of READ_REG (R211): the value is gathered. -/
  | readReg (sel : Byte)
  /-- The Status3 read of `we_seq` (R214): `WriteEnable(s)` unless WEL is set. -/
  | checkWel
  /-- The Status3 read of WRITE_DISABLE (R215): `WriteDisable(s)` if WEL is set. -/
  | checkWelClear
  /-- A Status3 read of `poll_busy`, after `reads` reads that saw busy (R212), and the caller's check. -/
  | poll (reads : Nat) (check : PollCheck)
  /-- The JEDEC frame (R221): its three bytes are gathered. -/
  | readJedec
  /-- The READ_DATA frame (R222): its bytes are gathered. -/
  | readData (col len : U32)
  /-- The first Status1 read of DISABLE_BLOCK_PROTECT (R223). -/
  | unprotRead
  /-- The Status1 write of DISABLE_BLOCK_PROTECT (R223): its outcome is ignored, even `Err`. -/
  | unprotWrite (val : Byte)
  /-- The Status1 re-read of DISABLE_BLOCK_PROTECT (R223): `BlockProtect(r)` unless `bp` is 0. -/
  | unprotVerify
deriving DecidableEq, Repr

/-- The payload of the `return` that ends a request, built from the bytes gathered. -/
inductive Ret where
  | unit
  | register
  | identity
  | bytes
  | marker
  | item (page : U32)
deriving DecidableEq, Repr

/-- What follows the transactions of the current iteration: the `return`, or the head of the enclosing loop
(43_storage_ops R263–R265). -/
inductive Tail where
  | ret (r : Ret)
  /-- STORAGE_READ's loop over `n` chunks (R263). -/
  | readLoop (n : Nat)
  /-- STORAGE_WRITE's loop over `n` chunks (R264). -/
  | writeLoop (n : Nat)
  /-- STORAGE_ERASE's loop under `Inclusive`, with its generator (R265, R177). -/
  | eraseBlocks (g : BlockGen)
  /-- STORAGE_ERASE's loop under `Exclusive`: the next page and the bound (R265). -/
  | eraseUpTo (p tp : U32)
deriving DecidableEq, Repr

/-- `SEQ` (10_state R34): the transactions left in this iteration, the first being the one in flight; what follows
them; the bytes gathered so far; and whether an error becomes an item (the `try` of R291). -/
structure Seq where
  ops : List Op
  tail : Tail
  acc : List Byte
  tryItem : Bool
deriving DecidableEq, Repr

/-! ## The transport and the device -/

/-- What a `Txn` returns (R11, R36): the kept bytes, or a transport error. -/
inductive TxnResult where
  | ok (kept : List Byte)
  | err (t : TErr)
deriving DecidableEq, Repr

/-- One transaction of a transcript (R15): the bytes sent, and the bytes kept or the error. -/
structure TxnRecord where
  sent : List Byte
  got : TxnResult
deriving DecidableEq, Repr

/-- A device memory: the listed (address, byte) cells. An unlisted address reads as `erasedByte` (log 23). -/
abbrev Memory := List Host.Cell

/-- What an unlisted address of a device memory reads as: the initial value of R91. -/
def erasedByte : Byte := 0xFF#8

/-- The canonical form of a memory: addresses strictly rising, and no cell equal to what an unlisted address reads
as. -/
abbrev Memory.wf (m : Memory) : Prop :=
  m.Pairwise (fun x y => x.1 < y.1) ∧ ∀ x ∈ m, x.2 ≠ erasedByte

/-- Every listed address lies below a bound. -/
abbrev Memory.below (m : Memory) (bound : Nat) : Prop := ∀ x ∈ m, x.1 < bound

/-- The device's state (10_state R41, 20_memory R91). The array is keyed by the linear address
`p × BUF_SIZE + c`, the page buffer by the column. -/
structure Device where
  array : Memory
  buf : Memory
  sr1 : Byte
  sr2 : Byte
  sr3 : Byte
  busyLeft : Nat
  poweredDown : Bool
  txnCount : Nat
deriving DecidableEq, Repr

/-! ## The host's side and the whole machine -/

/-- A request the host will submit (R40). `chained` marks a later request of a pseudo-instruction's expansion, which
the host does not submit when the request before it ended in `Err` (30_encoding R126). -/
structure HostItem where
  desc : Descriptor
  chained : Bool
deriving DecidableEq, Repr

/-- The machine. -/
structure State where
  /-- The configuration (R6): a parameter of the model that no step changes (R42, log 6). -/
  cfg : Config
  /-- The request descriptor latch (R31). -/
  desc : Descriptor
  /-- The result latch (R32). -/
  result : ResultLatch
  /-- `PHASE` (R33). -/
  phase : Phase
  /-- `SEQ` (R34). -/
  seq : Option Seq
  /-- `CUR` (R35). -/
  cur : U32
  /-- `K` (R35). -/
  k : U32
  /-- `SCAN_ACTIVE` (R38). -/
  scanActive : Bool
  /-- `SCAN_NEXT_PAGE` (R38). -/
  scanNextPage : U32
  /-- `SCAN_END` (R38). -/
  scanEnd : U32
  /-- The byte stream of the chip-select window in progress (R36, R37; log 10). -/
  bus : Option (List Byte)
  /-- What the last transaction returned, until the sequencer consumes it (R36; log 10). -/
  rx : Option TxnResult
  /-- The transcript of the current request (R15; log 11). -/
  trace : List TxnRecord
  /-- The device (R41). -/
  dev : Device
  /-- The requests the host will submit, in order (R40, R85; log 12). -/
  script : List HostItem
  /-- The outside world asks for an encoder reset (R330; log 14). -/
  resetReq : Bool
deriving DecidableEq, Repr

/-! ## Reset -/

/-- The result latch at reset: "no result" (R32, R60). -/
def ResultLatch.atReset : ResultLatch := { kind := 0xFF#8, info := 0#32, dataOut := [], outcome := none }

/-- The descriptor latch at reset: unspecified (R31, U18); zero is the model's choice (DESIGN CHOICE, log 4). -/
def Descriptor.atReset : Descriptor :=
  { op := 0#8, sel := 0#8, val := 0#8, rsvd := 0#8, a := 0#32, b := 0#32, dataIn := [] }

/-- The device at its own power-up with the values of R91: every byte of array and buffer 0xFF, Status1 0x7C,
Status2 0x18, Status3 0x00 (R61). Under the oracle these values answer nothing (log 1, log 3). -/
def Device.atPowerUp : Device :=
  { array := [], buf := [], sr1 := 0x7C#8, sr2 := 0x18#8, sr3 := 0x00#8, busyLeft := 0, poweredDown := false,
    txnCount := 0 }

/-- The machine right after reset (R60, R330): idle, no result, scanner inactive, nothing on the bus, waiting for
its first request. `CUR` and `K` are unspecified (U18): zero is the model's choice (DESIGN CHOICE, log 5). -/
def State.reset : State :=
  { cfg := Config.default
    desc := Descriptor.atReset
    result := ResultLatch.atReset
    phase := .idle
    seq := none
    cur := 0#32
    k := 0#32
    scanActive := false
    scanNextPage := 0#32
    scanEnd := 0#32
    bus := none
    rx := none
    trace := []
    dev := Device.atPowerUp
    script := []
    resetReq := false }

end Sys2Proof.Machine
end

