-- ==== Sys2Proof/Machine/Memory.lean ====
section
/-! DEFINITION. The operations over the device's memories (20_memory R91): one read, and one splice by which every
write is made, so that the canonical form is kept in one place. -/

namespace Sys2Proof.Machine

/-- The byte at an address; an unlisted one reads as erased (R91). -/
def Memory.read : Memory → Nat → Byte
  | [], _ => erasedByte
  | (a, v) :: rest, x => if a = x then v else Memory.read rest x

/-- `MemRead(addr, n)` (R91): `n` bytes from `addr` on. -/
def Memory.readBytes (m : Memory) (addr n : Nat) : List Byte :=
  (List.range n).map fun i => m.read (addr + i)

/-- The cells that a run of bytes needs, from an address on: those that differ from the erased value. -/
def cellsOf : Nat → List Byte → Memory
  | _, [] => []
  | a, v :: vs => if v = erasedByte then cellsOf (a + 1) vs else (a, v) :: cellsOf (a + 1) vs

/-- The memory with the `n` addresses from `lo` on replaced by the given cells, which must lie in that range. -/
def Memory.splice (m : Memory) (lo n : Nat) (cells : Memory) : Memory :=
  m.filter (fun x => decide (x.1 < lo)) ++ (cells ++ m.filter (fun x => decide (lo + n ≤ x.1)))

/-- `MemWrite(addr, n, v)` (R91): the bytes from `addr` on. -/
def Memory.writeBytes (m : Memory) (addr : Nat) (bs : List Byte) : Memory :=
  m.splice addr bs.length (cellsOf addr bs)

/-- One byte written. -/
def Memory.write (m : Memory) (addr : Nat) (v : Byte) : Memory := m.writeBytes addr [v]

/-- The `n` addresses from `lo` on erased (R99: every byte 0xFF). -/
def Memory.erase (m : Memory) (lo n : Nat) : Memory := m.splice lo n []

/-- The cells of the `n` addresses from `lo` on, renumbered from 0 (R103: a page copied into the buffer). -/
def Memory.slice (m : Memory) (lo n : Nat) : Memory :=
  (m.filter fun x => decide (lo ≤ x.1) && decide (x.1 < lo + n)).map fun x => (x.1 - lo, x.2)

/-- A page's bytes replaced by the buffer's (R102, `Overwrite`): the buffer's cells below `n`, renumbered from
`lo`. -/
def Memory.putSlice (m : Memory) (lo n : Nat) (buf : Memory) : Memory :=
  m.splice lo n ((buf.filter fun x => decide (x.1 < n)).map fun x => (lo + x.1, x.2))

/-- A page's bytes ANDed with the buffer's (R102, `AndMask`). An unlisted buffer byte is 0xFF and changes
nothing. -/
def Memory.andSlice (m : Memory) (lo n : Nat) (buf : Memory) : Memory :=
  (buf.filter fun x => decide (x.1 < n)).foldl (fun m x => m.write (lo + x.1) (m.read (lo + x.1) &&& x.2)) m

/-- A memory in canonical form, below a bound, from any list of cells: the later cells win. -/
def Memory.ofCells (bound : Nat) (cells : List Host.Cell) : Memory :=
  (cells.filter fun x => decide (x.1 < bound)).foldl (fun m x => m.write x.1 x.2) []

end Sys2Proof.Machine
end

