-- ==== Sys2Proof/Machine/Device.lean ====
section
/-! DEFINITION. The device's side of a transaction: the normative oracle (00_scope R12, log 2, log 3), and the
reference device (20_memory R90–R105). A device reads the byte stream of one chip-select window and answers as many
bytes, or the transport fails, or the reference simulator stops (R93). -/

namespace Sys2Proof.Machine

/-- How a device takes a byte stream: it refuses, or it answers and goes to its next state. -/
inductive DeviceReply where
  | refused (r : Refusal)
  | answered (answer : TxnResult) (d : Device)
deriving DecidableEq, Repr

/-! ## The oracle (R12) -/

/-- The answer to a window of `n` bytes: a failure, or `n` bytes, all of them free values (R12, log 2). -/
def oracleAnswer (count n : Nat) : TxnResult :=
  match Config.oracleFails count with
  | some t => .err t
  | none => .ok ((List.range n).map (Config.oracleByte count))

/-- What the device holds afterwards: a free value, brought into canonical form (R12, R41, log 3). -/
def oracleDevice (c : Config) (count : Nat) : Device :=
  let h := Config.oracleHidden count
  { array := Memory.ofCells (c.pageCount * c.bufSize) h.array
    buf := Memory.ofCells c.bufSize h.buf
    sr1 := h.sr1, sr2 := h.sr2, sr3 := h.sr3
    busyLeft := h.busyLeft, poweredDown := h.poweredDown
    txnCount := count + 1 }

/-! ## The reference device (R90–R105) -/

/-- `t0`, the error of a transaction listed in `TXN_FAIL` (R92). -/
def refTransportError : TErr := { tag := 0 }

/-- A fresh reference device (R91): all 0xFF but the marker of each block in `INIT_BAD`, at R91's linear address
`p × BUF_SIZE + c`. With `SPARE_SIZE = 0`, which R6 does not exclude, a page has no column 2048 and that address is
column 0 of the next page; and a block outside the device gets no marker (DESIGN CHOICE, log 31). -/
def Device.fresh (c : Config) : Device :=
  { Device.atPowerUp with
    array := Memory.ofCells (c.pageCount * c.bufSize)
      (c.ref.initBad.map fun b => (64 * b * c.bufSize + markerCol.toNat, 0x00#8))
    sr1 := c.ref.sr1Init
    sr2 := c.ref.sr2Init }

/-- One bit of a status register as the device sets it. -/
def flagSet (b : Byte) (f : Field) (v : Bool) : Byte := fieldSet b f (if v then 1#8 else 0#8)

/-- One bit of a status register as the device reads it. -/
def flagGet (b : Byte) (f : Field) : Bool := fieldGet b f != 0#8

/-- Status3 as a read reports it: `busy` follows `busy_left` (R96). -/
def reportedSr3 (c : Config) (d : Device) : Byte := flagSet d.sr3 c.layout.busy (decide (0 < d.busyLeft))

/-- The register value of a read (R96): 0x00 for an unknown select. -/
def registerValue (c : Config) (d : Device) (sel : Byte) : Byte :=
  if sel = selSr1 then d.sr1
  else if sel = selSr2 then d.sr2
  else if sel = selSr3 then reportedSr3 c d
  else 0x00#8

/-- A register read's effect (R96): a Status3 read counts one busy poll down. -/
def afterRegisterRead (d : Device) (sel : Byte) : Device :=
  if sel = selSr3 ∧ 0 < d.busyLeft then { d with busyLeft := d.busyLeft - 1 } else d

/-- A register write's effect (R97): Status1 and Status2 whole, any other select nothing. -/
def refWriteReg (d : Device) (sel val : Byte) : Device :=
  if sel = selSr1 then { d with sr1 := val }
  else if sel = selSr2 then { d with sr2 := val }
  else d

/-- Write-enable and write-disable (R98). -/
def refSetWel (c : Config) (d : Device) (v : Bool) : Device := { d with sr3 := flagSet d.sr3 c.layout.wel v }

/-- Does the device's block protection refuse an erase or a program (R99, R102: `sr1.bp ≠ 0`)? -/
def protectedDevice (c : Config) (d : Device) : Bool := fieldGet d.sr1 c.layout.bp != 0#8

/-- Does the erase of the block of page `p` fail (R99)? -/
def eraseFails (c : Config) (d : Device) (p : Nat) : Bool :=
  decide (c.pageCount ≤ p) || protectedDevice c d || c.ref.failErase.contains (p >>> 6)

/-- The block erase (R99). -/
def refBlockErase (c : Config) (d : Device) (p : Nat) : Device :=
  if flagGet d.sr3 c.layout.wel then
    { d with
      array := if eraseFails c d p then d.array
        else d.array.erase (64 * (p >>> 6) * c.bufSize) (64 * c.bufSize)
      sr3 := flagSet (flagSet d.sr3 c.layout.eFail (eraseFails c d p)) c.layout.wel false
      busyLeft := c.ref.busyPolls }
  else d

/-- The bytes of a load that fall inside the buffer (R100: "bytes past the buffer end are dropped"). -/
def insideBuffer (c : Config) (col : Nat) (data : List Byte) : List Byte := data.take (c.bufSize - col)

/-- The load (R100): the rest of the buffer is filled with 0xFF (decision D26). -/
def refLoad (c : Config) (d : Device) (col : Nat) (data : List Byte) : Device :=
  if flagGet d.sr3 c.layout.wel then
    { d with buf := Memory.writeBytes [] col (insideBuffer c col data) }
  else d

/-- The random load (R101): the rest of the buffer is preserved. -/
def refRandomLoad (c : Config) (d : Device) (col : Nat) (data : List Byte) : Device :=
  if flagGet d.sr3 c.layout.wel then
    { d with buf := d.buf.writeBytes col (insideBuffer c col data) }
  else d

/-- Does programming page `p` fail (R102)? -/
def programFails (c : Config) (d : Device) (p : Nat) : Bool :=
  decide (c.pageCount ≤ p) || protectedDevice c d || c.ref.failProgram.contains p

/-- The array with the buffer programmed into page `p` (R102). -/
def programmedArray (c : Config) (d : Device) (p : Nat) : Memory :=
  match c.ref.programSemantics with
  | .overwrite => d.array.putSlice (p * c.bufSize) c.bufSize d.buf
  | .andMask => d.array.andSlice (p * c.bufSize) c.bufSize d.buf

/-- The program execute (R102). -/
def refProgram (c : Config) (d : Device) (p : Nat) : Device :=
  if flagGet d.sr3 c.layout.wel then
    { d with
      array := if programFails c d p then d.array else programmedArray c d p
      sr3 := flagSet (flagSet d.sr3 c.layout.pFail (programFails c d p)) c.layout.wel false
      busyLeft := c.ref.busyPolls }
  else d

/-- The page data read (R103). -/
def refPageRead (c : Config) (d : Device) (p : Nat) : Device :=
  { d with
    buf := if p < c.pageCount then d.array.slice (p * c.bufSize) c.bufSize else []
    sr3 := fieldSet d.sr3 c.layout.ecc 0#8
    busyLeft := c.ref.busyPolls }

/-- The buffer byte a read returns for a column; past the end it is 0xFF (R104). -/
def bufferByte (c : Config) (d : Device) (col : Nat) : Byte :=
  if col < c.bufSize then d.buf.read col else 0xFF#8

/-- `n` answer bytes where nothing is defined (R92). -/
def blankAnswer (n : Nat) : List Byte := List.replicate n 0xFF#8

/-- The answer to a JEDEC frame of `n` bytes (R95). -/
def jedecAnswer (c : Config) (n : Nat) : List Byte :=
  (List.range n).map fun i =>
    if i = 2 then c.ref.jedecId0 else if i = 3 then c.ref.jedecId1 else if i = 4 then c.ref.jedecId2 else 0xFF#8

/-- The answer to a register read of `n` bytes (R96). -/
def registerAnswer (n : Nat) (v : Byte) : List Byte :=
  (List.range n).map fun i => if 2 ≤ i then v else 0xFF#8

/-- The answer to a buffer read: column and dummy bytes undefined, then `fill` buffer bytes from `col` on (R104). -/
def bufferAnswer (c : Config) (d : Device) (col fill : Nat) : List Byte :=
  blankAnswer (2 + c.colBytes) ++ (List.range fill).map fun i => bufferByte c d (col + i)

/-- A page address at the head of the operand bytes (R99, R102, R103); what follows it is ignored. -/
def takePage : List Byte → Option Nat
  | x :: y :: z :: _ => some (x ++ y ++ z : U24).toNat
  | _ => none

/-- A load's frame handled (R100, R101): too short a frame does nothing. -/
def withColumn (c : Config) (d : Device) (f : Device → Nat → List Byte → Device) (rest : List Byte) : Device :=
  match takeCol c rest with
  | some (col, data) => f d col.toNat data
  | none => d

/-- A page command's frame handled (R99, R102, R103): too short a frame does nothing. -/
def withPage (d : Device) (f : Device → Nat → Device) (rest : List Byte) : Device :=
  match takePage rest with
  | some p => f d p
  | none => d

/-- The reference device takes a window (R92, R94–R105): the bytes it answers and its next state, the transaction
count apart. An opcode that no rule names, or an empty window, has no effect. -/
def refHandle (c : Config) (d : Device) : List Byte → List Byte × Device
  | [] => ([], d)
  | op :: rest =>
    let n := rest.length + 1
    if op = c.opc.reset then (blankAnswer n, { d with sr3 := 0x00#8, busyLeft := 0 })
    else if op = c.opc.jedec then (jedecAnswer c n, d)
    else if op = c.opc.readReg then
      match rest with
      | [] => (blankAnswer n, d)
      | sel :: _ => (registerAnswer n (registerValue c d sel), afterRegisterRead d sel)
    else if op = c.opc.writeReg then
      match rest with
      | sel :: val :: _ => (blankAnswer n, refWriteReg d sel val)
      | _ => (blankAnswer n, d)
    else if op = c.opc.writeEnable then (blankAnswer n, refSetWel c d true)
    else if op = c.opc.writeDisable then (blankAnswer n, refSetWel c d false)
    else if op = c.opc.blockErase then (blankAnswer n, withPage d (refBlockErase c) rest)
    else if op = c.opc.loadProgramData then (blankAnswer n, withColumn c d (refLoad c) rest)
    else if op = c.opc.randomLoadProgramData then (blankAnswer n, withColumn c d (refRandomLoad c) rest)
    else if op = c.opc.programExecute then (blankAnswer n, withPage d (refProgram c) rest)
    else if op = c.opc.pageDataRead then (blankAnswer n, withPage d (refPageRead c) rest)
    else if op = c.opc.readData then
      match takeCol c rest with
      | some (col, _ :: fill) => (bufferAnswer c d col.toNat fill.length, d)
      | _ => (blankAnswer n, d)
    else if op = powerDownOpcode c then (blankAnswer n, { d with poweredDown := true })
    else (blankAnswer n, d)

/-- Is a window a Status3 read, the one transaction a busy device handles (R93, R96)? -/
def isStatus3Read (c : Config) : List Byte → Bool
  | op :: sel :: _ => op == c.opc.readReg && sel == selSr3
  | _ => false

/-- The reference device (R92, R93): a listed transaction fails without effect; while powered down or busy it
refuses; otherwise it handles the window. Every answered transaction is counted. -/
def refRespond (c : Config) (d : Device) (sent : List Byte) : DeviceReply :=
  if c.ref.txnFail.contains d.txnCount then
    .answered (.err refTransportError) { d with txnCount := d.txnCount + 1 }
  else if d.poweredDown then .refused .devicePoweredDown
  else if 0 < d.busyLeft ∧ isStatus3Read c sent = false then .refused .deviceBusy
  else .answered (.ok (refHandle c d sent).1) { (refHandle c d sent).2 with txnCount := d.txnCount + 1 }

/-- The attached device takes a window (R12, R92). -/
def respond (c : Config) (d : Device) (sent : List Byte) : DeviceReply :=
  match c.device with
  | .oracle => .answered (oracleAnswer d.txnCount sent.length) (oracleDevice c d.txnCount)
  | .reference => refRespond c d sent

end Sys2Proof.Machine
end

