-- ==== Sys2Proof/Machine/Operands.lean ====
section
/-! DEFINITION. What requests make of their operands: the storage validators (43_storage_ops R260, R261), the data
chunks of a storage write (R264), the storage error view (R267), and the codes and words of a result (30_encoding R127,
60_exceptions R301). The address operands are those of Codecs.lean. -/

namespace Sys2Proof.Machine

/-- `check_rw` (R260): bounds first, then alignment; the information is the request's `A`. -/
def checkRw (c : Config) (off len : U32) : Option Err :=
  if c.capacity < len.toNat ∨ c.capacity - len.toNat < off.toNat then some (.outOfBounds off)
  else if off.toNat % pageSize ≠ 0 ∨ len.toNat % pageSize ≠ 0 then some (.notAligned off)
  else none

/-- `check_erase` (R261). -/
def checkErase (c : Config) (fromOff toOff : U32) : Option Err :=
  if toOff.toNat < fromOff.toNat ∨ c.capacity < toOff.toNat then some (.outOfBounds fromOff)
  else if fromOff.toNat % blockSize ≠ 0 ∨ toOff.toNat % blockSize ≠ 0 then some (.notAligned fromOff)
  else none

/-- `DATA_IN[2048k .. 2048k + 2048]` (R264). -/
def dataChunk (data : List Byte) (k : Nat) : List Byte := (data.drop (pageSize * k)).take pageSize

/-- The kinds of the storage contract (R267). -/
inductive StorageKind where
  | notAligned
  | outOfBounds
  | other
deriving DecidableEq, Repr

/-- `storage_kind` (R267). -/
def storageKind : Err → StorageKind
  | .notAligned _ => .notAligned
  | .outOfBounds _ => .outOfBounds
  | .transport _ => .other
  | .writeEnable _ => .other
  | .writeDisable _ => .other
  | .eraseFailure _ => .other
  | .programFailure _ => .other
  | .blockProtect _ => .other
  | .pollTimeout _ => .other
  | .badRequest _ => .other

/-- The `KIND` code of an error (R301). -/
def errKind : Err → Byte
  | .transport _ => 0x01#8
  | .writeEnable _ => 0x02#8
  | .writeDisable _ => 0x03#8
  | .eraseFailure _ => 0x04#8
  | .programFailure _ => 0x05#8
  | .blockProtect _ => 0x06#8
  | .notAligned _ => 0x07#8
  | .outOfBounds _ => 0x08#8
  | .pollTimeout _ => 0x09#8
  | .badRequest _ => 0x0A#8

/-- The `INFO` word of an error (R301). -/
def errInfo : Err → U32
  | .transport _ => 0#32
  | .writeEnable s => s.setWidth 32
  | .writeDisable s => s.setWidth 32
  | .eraseFailure p => p
  | .programFailure p => p
  | .blockProtect r => r.setWidth 32
  | .notAligned off => off
  | .outOfBounds off => off
  | .pollTimeout n => BitVec.ofNat 32 n
  | .badRequest w => w

/-- The `INFO` word of a decoded identity (R127): known mark, manufacturer, code. -/
def identityInfo (id : JedecId) : U32 :=
  (match id.name with
    | .known _ => 0x01#8
    | .unknown => 0x00#8) ++ id.mfr ++ id.code

/-- The `KIND` of a result (R127): an item that carries an error has that error's code. -/
def resultKind : Result → Byte
  | .ok (.item (.failed e)) => errKind e
  | .ok _ => 0x00#8
  | .err e => errKind e

/-- The `INFO` of a result (R127). -/
def resultInfo : Result → U32
  | .ok .unit => 0#32
  | .ok (.register v) => v.setWidth 32
  | .ok (.identity id) => identityInfo id
  | .ok (.bytes bs) => BitVec.ofNat 32 bs.length
  | .ok (.number n) => BitVec.ofNat 32 n
  | .ok (.blockStatus .good) => 1#32
  | .ok (.blockStatus .failed) => 0#32
  | .ok (.item (.found p _)) => p
  | .ok (.item (.failed e)) => errInfo e
  | .ok (.item .finished) => 0xFFFFFFFF#32
  | .err e => errInfo e

/-- The `DATA_OUT` of a result (R127). -/
def resultData : Result → List Byte
  | .ok .unit => []
  | .ok (.register v) => [v]
  | .ok (.identity _) => []
  | .ok (.bytes bs) => bs
  | .ok (.number _) => []
  | .ok (.blockStatus _) => []
  | .ok (.item (.found _ record)) => record
  | .ok (.item (.failed _)) => []
  | .ok (.item .finished) => []
  | .err _ => []

/-- The result latch as a request's end writes it (R32, R127). -/
def latchOf (r : Result) : ResultLatch :=
  { kind := resultKind r, info := resultInfo r, dataOut := resultData r, outcome := some r }

end Sys2Proof.Machine
end

