-- ==== Sys2Proof/Machine/Ops.lean ====
section
/-! DEFINITION. The shared operations of the machine: one transaction on the bus, the end of a request (with an
error: 60_exceptions R310), the submission of a request and the encoder's reset, and the sequencer of 10_state R34, which
carries every request of 42–44 through its transactions. -/

namespace Sys2Proof.Machine

open Host

/-- An outcome of the machine. -/
abbrev Step := Outcome State Fault Refusal

/-! ## The bus (R11, R36) -/

/-- The kept bytes of a transaction, by its segments (R11). -/
def keepResult (segs : List Seg) : TxnResult → TxnResult
  | .ok m => .ok (keptOf segs m)
  | .err t => .err t

/-- The device has answered: the window closes, the answer waits for the sequencer, and the transcript gains the
transaction (R15, R36). -/
def State.closeWindow (s : State) (sent : List Byte) (got : TxnResult) (d : Device) : State :=
  { s with bus := none, rx := some got, trace := s.trace ++ [{ sent := sent, got := got }], dev := d }

/-- One bus transaction (R11): the device takes the window's byte stream, and the kept bytes, or the transport
error, come back. -/
def transact (segs : List Seg) (s : State) : Step :=
  match respond s.cfg s.dev (streamOf s.cfg.rxFill segs) with
  | .refused r => .refused r
  | .answered m d => .next (s.closeWindow (streamOf s.cfg.rxFill segs) (keepResult segs m) d)

/-! ## The end of a request -/

/-- A request ends (R32, R33): the result latch is written, the phase returns to `Idle`, the sequencer is empty. -/
def State.finish (s : State) (r : Result) : State :=
  { s with result := latchOf r, phase := .idle, seq := none, bus := none, rx := none }

/-- Taking an error, the machine's exception entry (R310): no further transaction, the latch holds the error's
`KIND` and `INFO`, the phase is `Idle`, nothing is rolled back, scanner state stays. Inside the `try` of SCAN_NEXT
the error becomes an item (R291, R315). -/
def State.raise (s : State) (tryItem : Bool) (e : Err) : State :=
  s.finish (if tryItem then .ok (.item (.failed e)) else .err e)

/-! ## The host's interface and reset -/

/-- The host submits a request (R40): the whole descriptor latch at once, then `Busy`; a new transcript begins
(R15). -/
def State.submit (s : State) (d : Descriptor) : State :=
  { s with desc := d, phase := .busy, seq := none, bus := none, rx := none, trace := [] }

/-- Did the last request end in `Err` (R126)? -/
def lastFailed (s : State) : Bool :=
  match s.result.outcome with
  | some (.err _) => true
  | _ => false

/-- The script without the later requests of the expansion it is in (R126). -/
def dropChained (script : List HostItem) : List HostItem := script.dropWhile (·.chained)

/-- What the host still submits (R126): after an `Err`, none of the later requests of the same expansion. -/
def hostScript (s : State) : List HostItem :=
  if lastFailed s then dropChained s.script else s.script

/-- What the host still submits after an encoder reset. The reset clears the latch that `hostScript` reads, so the
expansion is cut here: after an `Err` its later requests stay unsubmitted (R126), and a request that the reset abandons
has not ended, so none is submitted after it ("only after the one before it has ended", R126; DEDUCED, log 29). Where
the last request ended in `Ok` the host goes on with the expansion (DESIGN CHOICE, log 29). -/
def scriptAfterReset (s : State) : List HostItem :=
  match s.phase with
  | .busy => dropChained s.script
  | .idle => hostScript s

/-- Encoder reset (R330, R60): the encoder's registers take their reset values, a request in flight is abandoned
without a result (decision D39), the device keeps everything (R331), its transaction count too (DESIGN CHOICE,
log 30), and the configuration stays (R42). The host keeps its further requests (log 14) but for the rest of an
expansion that was cut short (R126, log 29). -/
def State.encoderReset (s : State) : State :=
  { State.reset with cfg := s.cfg, dev := s.dev, script := scriptAfterReset s }

/-! ## The sequencer (R34) -/

/-- The wire command of a sequencer operation (42_driver_primitives). -/
def opCommand (c : Config) : Op → Instr
  | .send cmd => cmd
  | .readReg sel => .readRegWire sel
  | .checkWel => .readRegWire selSr3
  | .checkWelClear => .readRegWire selSr3
  | .poll _ _ => .readRegWire selSr3
  | .readJedec => .jedecWire
  | .readData col len => .readDataWire (wireCol c col) len
  | .unprotRead => .readRegWire selSr1
  | .unprotWrite val => .writeRegWire selSr1 val
  | .unprotVerify => .readRegWire selSr1

/-- The byte stream of a sequencer operation's frame. -/
def opStream (c : Config) (op : Op) : List Byte := streamOf c.rxFill (frame c (opCommand c op))

/-- The sequencer drives the next transaction on the bus (R34, R36). -/
def State.issue (s : State) (q : Seq) (op : Op) (rest : List Op) : State :=
  { s with phase := .busy, seq := some { q with ops := op :: rest }, bus := some (opStream s.cfg op), rx := none }

/-- What the check on an answer decides. -/
inductive Verdict where
  | proceed (gathered : List Byte)   -- on to what follows, these bytes gathered
  | replace (op : Op)                -- another transaction in this one's place
  | raise (e : Err)
  | short                            -- the answer is shorter than the frame keeps
deriving DecidableEq, Repr

/-- A register read's answer: the third byte is the value (R143, R211). -/
def onRegister (bs : List Byte) (f : Byte → Verdict) : Verdict :=
  match bs with
  | [_, _, v] => f v
  | _ => .short

/-- The caller's check of the last poll snapshot (R216, R219, R220, R314). -/
def checkPoll (c : Config) (snapshot : Byte) : PollCheck → Verdict
  | .nothing => .proceed []
  | .eraseFlag p => if (decodeSr3 c.layout snapshot).eFail = 1#1 then .raise (.eraseFailure p) else .proceed []
  | .programFlag p => if (decodeSr3 c.layout snapshot).pFail = 1#1 then .raise (.programFailure p) else .proceed []

/-- One read of `poll_busy` (R212): not busy ends the poll; the `N`-th busy read of a bounded poll raises; else it
reads again. -/
def pollStep (c : Config) (reads : Nat) (check : PollCheck) (snapshot : Byte) : Verdict :=
  if (decodeSr3 c.layout snapshot).busy = 0#1 then checkPoll c snapshot check
  else if c.pollLimit = .limit (reads + 1) then .raise (.pollTimeout (reads + 1))
  else .replace (.poll (reads + 1) check)

/-- The check on the bytes an answered transaction kept (42_driver_primitives). -/
def judgeOk (c : Config) (bs : List Byte) : Op → Verdict
  | .send _ => .proceed []
  | .readReg _ => onRegister bs fun v => .proceed [v]
  | .checkWel =>
    onRegister bs fun v => if (decodeSr3 c.layout v).wel = 0#1 then .raise (.writeEnable v) else .proceed []
  | .checkWelClear =>
    onRegister bs fun v => if (decodeSr3 c.layout v).wel = 1#1 then .raise (.writeDisable v) else .proceed []
  | .poll reads check => onRegister bs (pollStep c reads check)
  | .readJedec => if bs.length = 3 then .proceed bs else .short
  | .readData _ len => if bs.length = len.toNat then .proceed bs else .short
  | .unprotRead => onRegister bs fun v => .replace (.unprotWrite (clearBp c.layout v))
  | .unprotWrite _ => .proceed []
  | .unprotVerify =>
    onRegister bs fun v =>
      if (decodeSr1 c.layout v).bp ≠ 0#4 then .raise (.blockProtect (decodeSr1 c.layout v).bp) else .proceed []

/-- The check on what a transaction returned: a transport error is raised at once (R302, R314), except for the
Status1 write of DISABLE_BLOCK_PROTECT, whose outcome is ignored (R223). -/
def judge (c : Config) (op : Op) : TxnResult → Verdict
  | .ok bs => judgeOk c bs op
  | .err t =>
    match op with
    | .unprotWrite _ => .proceed []
    | _ => .raise (.transport t)

/-- The payload of a request's `return` (R127), from the bytes gathered. -/
def retPayload (c : Config) (acc : List Byte) : Ret → Option Payload
  | .unit => some .unit
  | .register =>
    match acc with
    | [v] => some (.register v)
    | _ => none
  | .identity =>
    match acc with
    | [b0, b1, b2] => some (.identity (jedecDecode c.knownDevices b0 b1 b2))
    | _ => none
  | .bytes => some (.bytes acc)
  | .marker =>
    match acc with
    | [m] => some (.blockStatus (if m = 0xFF#8 then .good else .failed))
    | _ => none
  | .item p =>
    match acc with
    | [a0, a1, b0] => some (.item (.found p [a0, a1, b0]))
    | _ => none

/-- A request's `return`. -/
def State.deliver (s : State) (acc : List Byte) (r : Ret) : Step :=
  match retPayload s.cfg acc r with
  | some p => .next (s.finish (.ok p))
  | none => .fault .shortAnswer

/-! ### Primitive bodies (R225, R226) -/

/-- `we_seq` (R214). -/
def weSeq : List Op := [.send .writeEnableWire, .checkWel]

/-- The body of BLOCK_ERASE (R216). -/
def eraseBody (p : U32) : List Op :=
  weSeq ++ [.send (.blockEraseWire (wirePage p)), .poll 0 (.eraseFlag p)]

/-- The body of LOAD_PROGRAM_DATA (R217). -/
def loadBody (c : Config) (col : U32) (data : List Byte) : List Op :=
  weSeq ++ [.send (.loadProgramDataWire (wireCol c col) data)]

/-- The body of RANDOM_LOAD_PROGRAM_DATA (R218). -/
def randomLoadBody (c : Config) (col : U32) (data : List Byte) : List Op :=
  weSeq ++ [.send (.randomLoadProgramDataWire (wireCol c col) data)]

/-- The body of PROGRAM_EXECUTE (R219). -/
def programBody (p : U32) : List Op := [.send (.programExecuteWire (wirePage p)), .poll 0 (.programFlag p)]

/-- The body of PAGE_DATA_READ (R220). -/
def pageReadBody (p : U32) : List Op := [.send (.pageDataReadWire (wirePage p)), .poll 0 .nothing]

/-! ### Loops (R263–R265) -/

/-- One chunk of STORAGE_READ at page `p` (R263). -/
def readChunk (p : U32) : List Op := pageReadBody p ++ [.readData 0#32 2048#32]

/-- One chunk of STORAGE_WRITE at page `p` (R264). -/
def writeChunk (c : Config) (p : U32) (chunk : List Byte) : List Op := loadBody c 0#32 chunk ++ programBody p

/-- The sequencer takes up a non-empty list of transactions, or there is none to take. -/
def State.take (s : State) (q : Seq) : List Op → Step
  | [] => .fault .noTransaction
  | op :: rest => .next (s.issue q op rest)

/-- The head of STORAGE_READ's loop, with `K` the index of the next chunk (R263). -/
def State.readHead (s : State) (q : Seq) (n : Nat) : Step :=
  if s.k.toNat < n then
    { s with cur := (incrementPage s.cur).2 }.take q (readChunk (incrementPage s.cur).1)
  else s.deliver q.acc .bytes

/-- The head of STORAGE_WRITE's loop, with `K` the index of the next chunk (R264). -/
def State.writeHead (s : State) (q : Seq) (data : List Byte) (n : Nat) : Step :=
  if s.k.toNat < n then
    { s with cur := (incrementPage s.cur).2 }.take q
      (writeChunk s.cfg (incrementPage s.cur).1 (dataChunk data s.k.toNat))
  else s.deliver q.acc .unit

/-- The head of STORAGE_ERASE's loop under `Inclusive` (R265): the generator's next block. -/
def State.eraseHead (s : State) (q : Seq) (g : BlockGen) : Step :=
  match blocksNext g with
  | (some p, g') => { s with cur := g'.cur }.take { q with tail := .eraseBlocks g' } (eraseBody p)
  | (none, _) => s.deliver q.acc .unit

/-- The head of STORAGE_ERASE's loop under `Exclusive` (R265). -/
def State.eraseUpToHead (s : State) (q : Seq) (p tp : U32) : Step :=
  if p.toNat < tp.toNat then
    { s with cur := p + 64#32 }.take { q with tail := .eraseUpTo (p + 64#32) tp } (eraseBody p)
  else s.deliver q.acc .unit

/-- The iteration has no transaction left: the request returns, or its loop goes on with the next chunk. -/
def State.iterate (s : State) (data : List Byte) (q : Seq) : Step :=
  match q.tail with
  | .ret r => s.deliver q.acc r
  | .readLoop n => { s with k := s.k + 1#32 }.readHead q n
  | .writeLoop n => { s with k := s.k + 1#32 }.writeHead q data n
  | .eraseBlocks g => { s with k := s.k + 1#32 }.eraseHead q g
  | .eraseUpTo p tp => { s with k := s.k + 1#32 }.eraseUpToHead q p tp

/-- What follows a transaction that passed its check: the next of the iteration, or its end. -/
def State.advance (s : State) (data : List Byte) (q : Seq) (rest : List Op) : Step :=
  match rest with
  | op :: rest' => .next (s.issue q op rest')
  | [] => s.iterate data q

/-- The sequencer consumes the answer of the transaction in flight (R34, R36). -/
def State.resume (s : State) (data : List Byte) (q : Seq) (r : TxnResult) : Step :=
  match q.ops with
  | [] => .fault .noTransaction
  | op :: rest =>
    match judge s.cfg op r with
    | .proceed gathered => s.advance data { q with acc := q.acc ++ gathered } rest
    | .replace op' => .next (s.issue q op' rest)
    | .raise e => .next (s.raise q.tryItem e)
    | .short => .fault .shortAnswer

/-- A request's turn: it starts, or it goes on with the answer that has come back. Every meaning of a request is
this, with its own start; `data` is its data operand, read again by each chunk of STORAGE_WRITE. -/
def runRequest (data : List Byte) (start : State → Step) (s : State) : Step :=
  match s.seq with
  | none => start s
  | some q =>
    match s.rx with
    | none => .fault .noAnswer
    | some r => s.resume data q r

/-- A request that is one list of transactions and a `return` (42_driver_primitives). -/
def startOps (ops : List Op) (r : Ret) (s : State) : Step :=
  s.take { ops := ops, tail := .ret r, acc := [], tryItem := false } ops

end Sys2Proof.Machine
end

