-- ==== Sys2Proof/Machine/Primitive.lean ====
section
/-! DEFINITION. The Driver Core requests (42_driver_primitives R210–R224): each is its list of transactions, taken
from the rule's pseudocode, and its `return`. -/

namespace Sys2Proof.Machine

/-- `RESET` (R210): one transaction, no poll after it (R342). -/
def execReset (s : State) : Step := runRequest [] (startOps [.send .resetWire] .unit) s

/-- `JEDEC` (R221). -/
def execJedec (s : State) : Step := runRequest [] (startOps [.readJedec] .identity) s

/-- `WRITE_ENABLE` (R214). -/
def execWren (s : State) : Step := runRequest [] (startOps weSeq .unit) s

/-- `WRITE_DISABLE` (R215). -/
def execWrdi (s : State) : Step :=
  runRequest [] (startOps [.send .writeDisableWire, .checkWelClear] .unit) s

/-- `READ_REG sel` (R211): the select is not checked (decision D35). -/
def execRdreg (sel : Byte) (s : State) : Step := runRequest [] (startOps [.readReg sel] .register) s

/-- `WRITE_REG sel, val` (R213): neither is checked, and nothing verifies the write. -/
def execWrreg (sel val : Byte) (s : State) : Step :=
  runRequest [] (startOps [.send (.writeRegWire sel val)] .unit) s

/-- `BLOCK_ERASE page` (R216). -/
def execBerase (page : U32) (s : State) : Step := runRequest [] (startOps (eraseBody page) .unit) s

/-- `LOAD_PROGRAM_DATA col, data` (R217). -/
def execPload (col : U32) (data : List Byte) (s : State) : Step :=
  runRequest data (fun s => startOps (loadBody s.cfg col data) .unit s) s

/-- `RANDOM_LOAD_PROGRAM_DATA col, data` (R218). -/
def execPloadr (col : U32) (data : List Byte) (s : State) : Step :=
  runRequest data (fun s => startOps (randomLoadBody s.cfg col data) .unit s) s

/-- `PROGRAM_EXECUTE page` (R219): no write-enable (conflict C6). -/
def execPexec (page : U32) (s : State) : Step := runRequest [] (startOps (programBody page) .unit) s

/-- `PAGE_DATA_READ page` (R220): no write-enable (conflict C5), no failure flag checked. -/
def execPread (page : U32) (s : State) : Step := runRequest [] (startOps (pageReadBody page) .unit) s

/-- `READ_DATA col, len` (R222). -/
def execRdata (col len : U32) (s : State) : Step := runRequest [] (startOps [.readData col len] .bytes) s

/-- `DISABLE_BLOCK_PROTECT` (R223): read, write back with `bp` cleared, re-read and verify. -/
def execUnprot (s : State) : Step := runRequest [] (startOps [.unprotRead, .unprotVerify] .unit) s

/-- `POWER_DOWN` (R224). -/
def execPwrdn (s : State) : Step := runRequest [] (startOps [.send .powerDownWire] .unit) s

end Sys2Proof.Machine
end

