-- ==== Sys2Proof/Machine/Scanner.lean ====
section
/-! DEFINITION. The bad-block scanner (44_bad_block_scanner R290, R291). -/

namespace Sys2Proof.Machine

/-- `SCAN_START` (R290): a new scanner; no frame. -/
def startScan (s : State) : Step :=
  .next ({ s with scanActive := true, scanNextPage := 0#32,
                  scanEnd := BitVec.ofNat 32 (s.cfg.pageCount - pagesPerBlock) }.finish (.ok .unit))

/-- `SCAN_START` (mnemonic SCANST). -/
def execScanst (s : State) : Step := runRequest [] startScan s

/-- The transactions of one scanner step at page `p` (R291): the page read, columns 0 and 1, the marker column. -/
def scanBody (p : U32) : List Op :=
  pageReadBody p ++ [.readData 0#32 2#32, .readData markerCol 1#32]

/-- One step of the scanner (R291): `End` past the bound; else the cursor moves on before any transaction, and the
page's two leading bytes and its marker byte are read inside the `try`. -/
def startScanNext (s : State) : Step :=
  if s.scanActive = false ∨ s.scanEnd.toNat < s.scanNextPage.toNat then
    .next ({ s with scanActive := false }.finish (.ok (.item .finished)))
  else
    { s with scanNextPage := s.scanNextPage + 64#32 }.take
      { ops := [], tail := .ret (.item s.scanNextPage), acc := [], tryItem := true }
      (scanBody s.scanNextPage)

/-- `SCAN_NEXT` (mnemonic SCANNX). -/
def execScannx (s : State) : Step := runRequest [] startScanNext s

end Sys2Proof.Machine
end

