-- ==== Sys2Proof/Machine/Storage.lean ====
section
/-! DEFINITION. The storage requests (43_storage_ops R262–R266): validation before any transaction, then the loops
over primitive bodies. -/

namespace Sys2Proof.Machine

/-- A sequencer at the head of a loop: no transaction yet. -/
def loopSeq (t : Tail) : Seq := { ops := [], tail := t, acc := [], tryItem := false }

/-- The start of STORAGE_READ (R263). -/
def startRead (off len : U32) (s : State) : Step :=
  match checkRw s.cfg off len with
  | some e => .next (s.raise false e)
  | none =>
    { s with cur := fromByteAddress off, k := 0#32 }.readHead (loopSeq (.readLoop (len.toNat / pageSize)))
      (len.toNat / pageSize)

/-- `STORAGE_READ off, len` (R263). -/
def execSread (off len : U32) (s : State) : Step := runRequest [] (startRead off len) s

/-- The start of STORAGE_WRITE (R264); `B` is the data's length (R123). -/
def startWrite (off : U32) (data : List Byte) (s : State) : Step :=
  match checkRw s.cfg off (BitVec.ofNat 32 data.length) with
  | some e => .next (s.raise false e)
  | none =>
    { s with cur := fromByteAddress off, k := 0#32 }.writeHead (loopSeq (.writeLoop (data.length / pageSize))) data
      (data.length / pageSize)

/-- `STORAGE_WRITE off, data` (R264). -/
def execSwrite (off : U32) (data : List Byte) (s : State) : Step := runRequest data (startWrite off data) s

/-- The start of STORAGE_ERASE (R265), in the configured range mode (conflict C1). -/
def startErase (fromOff toOff : U32) (s : State) : Step :=
  match checkErase s.cfg fromOff toOff with
  | some e => .next (s.raise false e)
  | none =>
    match s.cfg.eraseRange with
    | .inclusive =>
      { s with cur := fromByteAddress fromOff, k := 0#32 }.eraseHead
        (loopSeq (.eraseBlocks (blocks (fromByteAddress fromOff) (fromByteAddress toOff))))
        (blocks (fromByteAddress fromOff) (fromByteAddress toOff))
    | .exclusive =>
      { s with cur := fromByteAddress fromOff, k := 0#32 }.eraseUpToHead
        (loopSeq (.eraseUpTo (fromByteAddress fromOff) (fromByteAddress toOff)))
        (fromByteAddress fromOff) (fromByteAddress toOff)

/-- `STORAGE_ERASE from, to` (R265). -/
def execSerase (fromOff toOff : U32) (s : State) : Step := runRequest [] (startErase fromOff toOff) s

/-- `CAPACITY` (R262): no frame; the payload is in `INFO`. -/
def execScap (s : State) : Step :=
  runRequest [] (fun s => .next (s.finish (.ok (.number s.cfg.capacity)))) s

/-- `BLOCK_STATUS off` (R266): no validation (decision D21); the page that holds `off`, column 2048. -/
def execBstat (off : U32) (s : State) : Step :=
  runRequest [] (startOps (pageReadBody (fromByteAddress off) ++ [.readData markerCol 1#32]) .marker) s

end Sys2Proof.Machine
end

