-- ==== Sys2Proof/Machine/Wire.lean ====
section
/-! DEFINITION. The wire commands (30_encoding R141–R155): each is one bus transaction with its frame, which the
attached device takes (Device.lean). -/

namespace Sys2Proof.Machine

/-- A window that holds one byte (log 16). -/
def loneFrame (op : Byte) : List Seg := [.w [op]]

/-- Frame `RESET` (R141). -/
def execResetWire (s : State) : Step := transact (frame s.cfg .resetWire) s

/-- Frame `JEDEC` (R142). -/
def execJedecWire (s : State) : Step := transact (frame s.cfg .jedecWire) s

/-- Frame `READ_REG` (R143). -/
def execReadRegWire (sel : Byte) (s : State) : Step := transact (frame s.cfg (.readRegWire sel)) s

/-- Frame `WRITE_REG` (R144). -/
def execWriteRegWire (sel val : Byte) (s : State) : Step := transact (frame s.cfg (.writeRegWire sel val)) s

/-- Frame `WRITE_ENABLE` (R145). -/
def execWriteEnableWire (s : State) : Step := transact (frame s.cfg .writeEnableWire) s

/-- Frame `WRITE_DISABLE` (R146). -/
def execWriteDisableWire (s : State) : Step := transact (frame s.cfg .writeDisableWire) s

/-- Frame `BLOCK_ERASE` (R147). -/
def execBlockEraseWire (page : U24) (s : State) : Step := transact (frame s.cfg (.blockEraseWire page)) s

/-- Frame `LOAD_PROGRAM_DATA` (R148). -/
def execLoadProgramDataWire (col : U24) (data : List Byte) (s : State) : Step :=
  transact (frame s.cfg (.loadProgramDataWire col data)) s

/-- Frame `RANDOM_LOAD_PROGRAM_DATA` (R149). -/
def execRandomLoadProgramDataWire (col : U24) (data : List Byte) (s : State) : Step :=
  transact (frame s.cfg (.randomLoadProgramDataWire col data)) s

/-- Frame `PROGRAM_EXECUTE` (R150). -/
def execProgramExecuteWire (page : U24) (s : State) : Step := transact (frame s.cfg (.programExecuteWire page)) s

/-- Frame `PAGE_DATA_READ` (R151). -/
def execPageDataReadWire (page : U24) (s : State) : Step := transact (frame s.cfg (.pageDataReadWire page)) s

/-- Frame `READ_DATA` (R152). -/
def execReadDataWire (col : U24) (len : U32) (s : State) : Step := transact (frame s.cfg (.readDataWire col len)) s

/-- Frame `POWER_DOWN` (R153). -/
def execPowerDownWire (s : State) : Step := transact (frame s.cfg .powerDownWire) s

/-- `OPC_RELEASE_POWER_DOWN`: a table constant that no request sends (R154). A window that holds it alone is answered
like any other: by a draw (R12), or by the reference device, which no rule tells to do anything with it (R92;
log 16). -/
def execReleasePowerDownWire (s : State) : Step := transact (loneFrame (releaseOpcode s.cfg)) s

/-- `OPC_SOFTWARE_RESET`: a table constant that no request sends (R155). A window that holds it alone is answered like
any other (R12, R92; log 16). -/
def execSoftwareResetWire (s : State) : Step := transact (loneFrame (softwareResetOpcode s.cfg)) s

end Sys2Proof.Machine
end

