-- ==== Sys2Proof/Machine/Dispatch.lean ====
section
/-! DEFINITION. exec: one arm per instruction, each one direct call of its meaning. -/

namespace Sys2Proof.Machine

open Host

def exec (i : Instr) (s : State) : Host.Outcome State Fault Refusal :=
  match i with
  -- Driver Core requests (42_driver_primitives)
  | .reset => Sys2Proof.Machine.execReset s
  | .jedec => Sys2Proof.Machine.execJedec s
  | .wren => Sys2Proof.Machine.execWren s
  | .wrdi => Sys2Proof.Machine.execWrdi s
  | .rdreg sel => Sys2Proof.Machine.execRdreg sel s
  | .wrreg sel val => Sys2Proof.Machine.execWrreg sel val s
  | .berase page => Sys2Proof.Machine.execBerase page s
  | .pload col data => Sys2Proof.Machine.execPload col data s
  | .ploadr col data => Sys2Proof.Machine.execPloadr col data s
  | .pexec page => Sys2Proof.Machine.execPexec page s
  | .pread page => Sys2Proof.Machine.execPread page s
  | .rdata col len => Sys2Proof.Machine.execRdata col len s
  | .unprot => Sys2Proof.Machine.execUnprot s
  | .pwrdn => Sys2Proof.Machine.execPwrdn s
  -- storage requests (43_storage_ops)
  | .sread off len => Sys2Proof.Machine.execSread off len s
  | .swrite off data => Sys2Proof.Machine.execSwrite off data s
  | .serase fromOff toOff => Sys2Proof.Machine.execSerase fromOff toOff s
  | .scap => Sys2Proof.Machine.execScap s
  | .bstat off => Sys2Proof.Machine.execBstat off s
  -- scanner requests (44_bad_block_scanner)
  | .scanst => Sys2Proof.Machine.execScanst s
  | .scannx => Sys2Proof.Machine.execScannx s
  -- wire commands (30_encoding R141–R155)
  | .resetWire => Sys2Proof.Machine.execResetWire s
  | .jedecWire => Sys2Proof.Machine.execJedecWire s
  | .readRegWire sel => Sys2Proof.Machine.execReadRegWire sel s
  | .writeRegWire sel val => Sys2Proof.Machine.execWriteRegWire sel val s
  | .writeEnableWire => Sys2Proof.Machine.execWriteEnableWire s
  | .writeDisableWire => Sys2Proof.Machine.execWriteDisableWire s
  | .blockEraseWire page => Sys2Proof.Machine.execBlockEraseWire page s
  | .loadProgramDataWire col data => Sys2Proof.Machine.execLoadProgramDataWire col data s
  | .randomLoadProgramDataWire col data => Sys2Proof.Machine.execRandomLoadProgramDataWire col data s
  | .programExecuteWire page => Sys2Proof.Machine.execProgramExecuteWire page s
  | .pageDataReadWire page => Sys2Proof.Machine.execPageDataReadWire page s
  | .readDataWire col len => Sys2Proof.Machine.execReadDataWire col len s
  | .powerDownWire => Sys2Proof.Machine.execPowerDownWire s
  | .releasePowerDownWire => Sys2Proof.Machine.execReleasePowerDownWire s
  | .softwareResetWire => Sys2Proof.Machine.execSoftwareResetWire s

end Sys2Proof.Machine
end

