-- ==== Sys2Proof/Machine/Fetch.lean ====
section
/-! DEFINITION. Where a step takes its instruction from (log 10, log 12): the frame on the bus, for the device; the
descriptor latch, for the encoder; the host's script, when the encoder is idle. -/

namespace Sys2Proof.Machine

/-- A window whose stream is no frame of the Command Table: unreachable for the encoder (R157); the device takes
the bytes as they are (R92, log 18). -/
def rawWindow (sent : List Byte) (s : State) : Step :=
  transact [.w sent] s

/-- The device's turn: the frame on the bus is the instruction. -/
def deviceTurn (sent : List Byte) (s : State) : Step :=
  match decodeWire s.cfg sent with
  | .ok i => exec i s
  | .error _ => rawWindow sent s

/-- The encoder's turn: the descriptor latch is the instruction (R31); a descriptor that spells no request ends in
`BadRequest(word0)` before any transaction (R123, R309). -/
def encoderTurn (s : State) : Step :=
  match decodeRequest s.desc with
  | .ok i => exec i s
  | .error _ => .next (s.raise false (.badRequest (word0 s.desc)))

/-- The host's turn, in `Idle` (R40): the next request is submitted, or the encoder goes on waiting. -/
def hostTurn (s : State) : Step :=
  match hostScript s with
  | [] => .next { s with script := [] }
  | item :: rest => .next ({ s with script := rest }.submit item.desc)

/-- One move of one agent (R8): the device when a window is open, which nothing interrupts (R81); else a reset that is
asked for (R330, log 14); else the encoder when busy, and the host when idle. -/
def agentTurn (s : State) : Step :=
  match s.bus with
  | some sent => deviceTurn sent s
  | none =>
    if s.resetReq then .next s.encoderReset
    else
      match s.phase with
      | .busy => encoderTurn s
      | .idle => hostTurn s

end Sys2Proof.Machine
end

