-- ==== Sys2Proof/Machine/Step.lean ====
section
/-! DEFINITION. One step of the machine, and where the host's harness places an instruction. -/

namespace Sys2Proof.Machine

/-- One step: a configuration that the spec refuses has no meaning (R7, R158); otherwise one move of one agent
(log 10). -/
def step (s : State) : Host.Outcome State Fault Refusal :=
  if s.cfg.valid then agentTurn s else .refused .badConfig

/-- `s` with one instruction placed where the next step fetches it (log 12, log 20): a wire command's frame on the
bus, or a request in the descriptor latch, as the host's submission puts it there (R40). -/
def State.withFetchWord (s : State) (nbits w : Nat) : State :=
  if nbits ≤ 8 then { s with bus := some (wordStream s.cfg w) }
  else { s.submit (wordDescriptor nbits w) with resetReq := false }

end Sys2Proof.Machine
end

