-- ==== Sys2Proof/Machine/Assembler.lean ====
section
/-! DEFINITION. The assembler (30_encoding R125, R126): written requests and pseudo-instructions, and the requests the
host submits for them. -/

namespace Sys2Proof.Machine

/-- A data operand (R125). -/
inductive DataArg where
  | bytes (bs : List Byte)
  | fill (n : Nat) (b : Byte)
  | pat (n : Nat)
deriving DecidableEq, Repr

/-- The bytes of a data operand (R125): `pat(n)` is `i mod 256`. -/
def dataBytes : DataArg → List Byte
  | .bytes bs => bs
  | .fill n b => List.replicate n b
  | .pat n => (List.range n).map (BitVec.ofNat 8)

/-- An assembly line (R125, R126). -/
inductive Line where
  | reset | jedec | wren | wrdi | unprot | pwrdn | scap | scanst | scannx
  | rdreg (sel : Byte)
  | wrreg (sel val : Byte)
  | berase (page : U32)
  | pexec (page : U32)
  | pread (page : U32)
  | pload (col : U32) (data : DataArg)
  | ploadr (col : U32) (data : DataArg)
  | rdata (col len : U32)
  | sread (off len : U32)
  | swrite (off : U32) (data : DataArg)
  | serase (fromOff toOff : U32)
  | bstat (off : U32)
  | stat1 | stat2 | stat3
  | program (page col : U32) (data : DataArg)
  | readpage (page col len : U32)
deriving DecidableEq, Repr

/-- The requests of a line (R125, R126): one, or the two of a pseudo-instruction's expansion. -/
def lineRequests : Line → List Instr
  | .reset => [.reset]
  | .jedec => [.jedec]
  | .wren => [.wren]
  | .wrdi => [.wrdi]
  | .unprot => [.unprot]
  | .pwrdn => [.pwrdn]
  | .scap => [.scap]
  | .scanst => [.scanst]
  | .scannx => [.scannx]
  | .rdreg sel => [.rdreg sel]
  | .wrreg sel val => [.wrreg sel val]
  | .berase page => [.berase page]
  | .pexec page => [.pexec page]
  | .pread page => [.pread page]
  | .pload col data => [.pload col (dataBytes data)]
  | .ploadr col data => [.ploadr col (dataBytes data)]
  | .rdata col len => [.rdata col len]
  | .sread off len => [.sread off len]
  | .swrite off data => [.swrite off (dataBytes data)]
  | .serase fromOff toOff => [.serase fromOff toOff]
  | .bstat off => [.bstat off]
  | .stat1 => [.rdreg selSr1]
  | .stat2 => [.rdreg selSr2]
  | .stat3 => [.rdreg selSr3]
  | .program page col data => [.pload col (dataBytes data), .pexec page]
  | .readpage page col len => [.pread page, .rdata col len]

/-- The descriptor of a request; a wire command has none. -/
def requestDescriptor (c : Config) (i : Instr) : Option Descriptor :=
  match encode c i with
  | .descriptor d => some d
  | .stream _ => none

/-- The requests of one expansion as the host submits them: every one after the first is chained to the one before
it (R126). -/
def chainItems : List Descriptor → List HostItem
  | [] => []
  | d :: rest => { desc := d, chained := false } :: rest.map fun e => { desc := e, chained := true }

/-- A line assembled (R125, R126): "The assembler sets `B` from the data operand's length." -/
def assemble (c : Config) (l : Line) : List HostItem :=
  chainItems ((lineRequests l).filterMap (requestDescriptor c))

/-- A program: the lines' requests in order. -/
def assembleAll (c : Config) (ls : List Line) : List HostItem := ls.flatMap (assemble c)

end Sys2Proof.Machine
end

