-- ==== Sys2Proof/Safety.lean ====
section
/-! DEFINITION. The terms the statements are made in: the encoder run against the answers of any device (00_scope R12),
the reference device taking a window (20_memory R92, R93), and the invariants of a safe run. -/

namespace Sys2Proof.Machine

open Host

/-! ## Kinds of instruction -/

/-- A wire command that has a frame (R141–R153). -/
def framed : Instr → Bool
  | .resetWire => true
  | .jedecWire => true
  | .readRegWire _ => true
  | .writeRegWire _ _ => true
  | .writeEnableWire => true
  | .writeDisableWire => true
  | .blockEraseWire _ => true
  | .loadProgramDataWire _ _ => true
  | .randomLoadProgramDataWire _ _ => true
  | .programExecuteWire _ => true
  | .pageDataReadWire _ => true
  | .readDataWire _ _ => true
  | .powerDownWire => true
  | .releasePowerDownWire => false
  | .softwareResetWire => false
  | .reset => false
  | .jedec => false
  | .wren => false
  | .wrdi => false
  | .rdreg _ => false
  | .wrreg _ _ => false
  | .berase _ => false
  | .pload _ _ => false
  | .ploadr _ _ => false
  | .pexec _ => false
  | .pread _ => false
  | .rdata _ _ => false
  | .unprot => false
  | .pwrdn => false
  | .sread _ _ => false
  | .swrite _ _ => false
  | .serase _ _ => false
  | .scap => false
  | .bstat _ => false
  | .scanst => false
  | .scannx => false

/-- A request (R121): its spelling is a descriptor. -/
def isRequest (i : Instr) : Bool :=
  match encode Config.default i with
  | .descriptor _ => true
  | .stream _ => false

/-! ## The encoder against any device (R12) -/

/-- The device, whichever it is, has returned `r` for the window on the bus: the sequencer may consume it, and the
transcript holds it (R15, R36). The device's own state plays no part in what the encoder does next. -/
def State.answeredBy (s : State) (r : TxnResult) : State := s.closeWindow (s.bus.getD []) r s.dev

/-- The encoder goes on with a request while a device returns the given results, one for each transaction. -/
def requestRun (i : Instr) : List TxnResult → State → Step
  | [], s => .next s
  | r :: rs, s =>
    match exec i (s.answeredBy r) with
    | .next t => requestRun i rs t
    | .fault f => .fault f
    | .refused e => .refused e

/-- What a register read keeps: two bytes that the encoder discards, and the value (R143, R211). -/
structure RegRead where
  first : Byte
  second : Byte
  value : Byte
deriving DecidableEq, Repr

/-- The draw of a register read. -/
def RegRead.draw (x : RegRead) : TxnResult := .ok [x.first, x.second, x.value]

/-- A register read in a transcript (R143). -/
def regRecord (c : Config) (sel : Byte) (x : RegRead) : TxnRecord :=
  { sent := [c.opc.readReg, sel, 0x00#8], got := x.draw }

/-- A transaction that keeps nothing, in a transcript. -/
def sentRecord (sent : List Byte) : TxnRecord := { sent := sent, got := .ok [] }

/-- A Status3 value whose `busy` is 1 (R54). -/
def busySet (c : Config) (v : Byte) : Prop := (decodeSr3 c.layout v).busy = 1#1

/-- The reads of one poll that ends: every one but the last saw `busy = 1`, and a bounded poll had more reads to make
(R212). -/
def pollEnds (c : Config) (busy : List RegRead) (last : RegRead) : Prop :=
  (∀ x ∈ busy, busySet c x.value) ∧ ¬busySet c last.value ∧ ∀ n, c.pollLimit = .limit n → busy.length < n

/-- The draws of a poll. -/
def pollDraws (busy : List RegRead) (last : RegRead) : List TxnResult := busy.map RegRead.draw ++ [last.draw]

/-- A poll in a transcript (R212). -/
def pollRecords (c : Config) (busy : List RegRead) (last : RegRead) : List TxnRecord :=
  busy.map (regRecord c 0xC0#8) ++ [regRecord c 0xC0#8 last]

/-- The write-enable sequence in a transcript (R214). -/
def weRecords (c : Config) (we : RegRead) : List TxnRecord :=
  [sentRecord [c.opc.writeEnable], regRecord c 0xC0#8 we]

/-- A buffer read in a transcript (R152). -/
def readRecord (c : Config) (col : U32) (bytes : List Byte) : TxnRecord :=
  { sent := c.opc.readData :: (serCol c col ++ [0x00#8]) ++ List.replicate bytes.length c.rxFill, got := .ok bytes }

/-! ### What a device returns for one chunk or block of a storage request -/

/-- The draws of one chunk of STORAGE_READ (R263). -/
structure ReadDraw where
  busy : List RegRead
  last : RegRead
  bytes : List Byte

/-- The draws of one chunk of STORAGE_WRITE (R264), or of one block of STORAGE_ERASE (R265). -/
structure WriteDraw where
  we : RegRead
  busy : List RegRead
  last : RegRead

/-- A chunk of STORAGE_READ that the device answers. -/
def ReadDraw.good (c : Config) (x : ReadDraw) : Prop := pollEnds c x.busy x.last ∧ x.bytes.length = 2048

/-- A chunk or block whose write-enable takes and whose poll ends. -/
def WriteDraw.runs (c : Config) (x : WriteDraw) : Prop :=
  (decodeSr3 c.layout x.we.value).wel = 1#1 ∧ pollEnds c x.busy x.last

def ReadDraw.draws (x : ReadDraw) : List TxnResult := .ok [] :: (pollDraws x.busy x.last ++ [.ok x.bytes])

/-- One chunk of STORAGE_WRITE. -/
def WriteDraw.chunkDraws (x : WriteDraw) : List TxnResult :=
  .ok [] :: x.we.draw :: .ok [] :: .ok [] :: pollDraws x.busy x.last

/-- One block of STORAGE_ERASE. -/
def WriteDraw.blockDraws (x : WriteDraw) : List TxnResult :=
  .ok [] :: x.we.draw :: .ok [] :: pollDraws x.busy x.last

/-- One chunk of STORAGE_READ at page `p`, in a transcript (R263). -/
def ReadDraw.records (c : Config) (p : U32) (x : ReadDraw) : List TxnRecord :=
  sentRecord (c.opc.pageDataRead :: serPage p) :: (pollRecords c x.busy x.last ++ [readRecord c 0#32 x.bytes])

/-- One chunk of STORAGE_WRITE at page `p`, in a transcript (R264). -/
def WriteDraw.chunkRecords (c : Config) (p : U32) (chunk : List Byte) (x : WriteDraw) : List TxnRecord :=
  weRecords c x.we ++
    sentRecord (c.opc.loadProgramData :: (serCol c 0#32 ++ chunk)) ::
    sentRecord (c.opc.programExecute :: serPage p) :: pollRecords c x.busy x.last

/-- One block of STORAGE_ERASE at page `p`, in a transcript (R265). -/
def WriteDraw.blockRecords (c : Config) (p : U32) (x : WriteDraw) : List TxnRecord :=
  weRecords c x.we ++ sentRecord (c.opc.blockErase :: serPage p) :: pollRecords c x.busy x.last

/-! ### How one chunk or block of a storage request fails (R268) -/

/-- The reads of a poll that uses up its bound, every one of them busy (R212, R313). -/
def pollSpent (c : Config) (busy : List RegRead) : Prop :=
  busy ≠ [] ∧ c.pollLimit = .limit busy.length ∧ ∀ x ∈ busy, busySet c x.value

/-- The last transaction of a transcript, failed by the transport. -/
def TxnRecord.failedBy (r : TxnRecord) (t : TErr) : TxnRecord := { r with got := .err t }

/-- A chunk of STORAGE_READ at page `p` fails (R263): what the device returned for it, its part of the transcript, and
its error. A transport error may strike any transaction of a chunk that otherwise goes well. -/
inductive ReadChunkFails (c : Config) (p : U32) : List TxnResult → List TxnRecord → Err → Prop
  | transport (x : ReadDraw) (j : Nat) (r : TxnRecord) (t : TErr) (good : x.good c)
      (struck : (x.records c p)[j]? = some r) :
      ReadChunkFails c p (x.draws.take j ++ [.err t]) ((x.records c p).take j ++ [r.failedBy t]) (.transport t)
  | pollTimeout (busy : List RegRead) (spent : pollSpent c busy) :
      ReadChunkFails c p (.ok [] :: busy.map RegRead.draw)
        (sentRecord (c.opc.pageDataRead :: serPage p) :: busy.map (regRecord c 0xC0#8)) (.pollTimeout busy.length)

/-- The frames that one chunk of STORAGE_WRITE sends at page `p` after its write-enable sequence (R264). -/
def chunkFrames (c : Config) (p : U32) (chunk : List Byte) : List (List Byte) :=
  [c.opc.loadProgramData :: (serCol c 0#32 ++ chunk), c.opc.programExecute :: serPage p]

/-- The frame that one block of STORAGE_ERASE sends at page `p` after its write-enable sequence (R265). -/
def blockFrames (c : Config) (p : U32) : List (List Byte) := [c.opc.blockErase :: serPage p]

/-- The draws of a write-enable sequence and of frames that keep nothing. -/
def writeDraws (we : RegRead) (frames : List (List Byte)) : List TxnResult :=
  .ok [] :: we.draw :: frames.map fun _ => .ok []

/-- The same in a transcript. -/
def writeRecords (c : Config) (we : RegRead) (frames : List (List Byte)) : List TxnRecord :=
  weRecords c we ++ frames.map sentRecord

/-- A chunk of STORAGE_WRITE or a block of STORAGE_ERASE, which sends `frames` after its write-enable sequence, fails
(R264, R265): what the device returned for it, its part of the transcript, and its error. `failed` says of the last
poll snapshot that the device reports a failure, and `failure` is that error. -/
inductive WriteBodyFails (c : Config) (frames : List (List Byte)) (failed : Byte → Prop) (failure : Err) :
    List TxnResult → List TxnRecord → Err → Prop
  | transport (x : WriteDraw) (j : Nat) (r : TxnRecord) (t : TErr) (runs : x.runs c)
      (struck : (writeRecords c x.we frames ++ pollRecords c x.busy x.last)[j]? = some r) :
      WriteBodyFails c frames failed failure
        ((writeDraws x.we frames ++ pollDraws x.busy x.last).take j ++ [.err t])
        ((writeRecords c x.we frames ++ pollRecords c x.busy x.last).take j ++ [r.failedBy t]) (.transport t)
  | writeEnable (we : RegRead) (clear : (decodeSr3 c.layout we.value).wel = 0#1) :
      WriteBodyFails c frames failed failure [.ok [], we.draw] (weRecords c we) (.writeEnable we.value)
  | pollTimeout (we : RegRead) (busy : List RegRead) (set : (decodeSr3 c.layout we.value).wel = 1#1)
      (spent : pollSpent c busy) :
      WriteBodyFails c frames failed failure (writeDraws we frames ++ busy.map RegRead.draw)
        (writeRecords c we frames ++ busy.map (regRecord c 0xC0#8)) (.pollTimeout busy.length)
  | reported (x : WriteDraw) (runs : x.runs c) (flag : failed x.last.value) :
      WriteBodyFails c frames failed failure (writeDraws x.we frames ++ pollDraws x.busy x.last)
        (writeRecords c x.we frames ++ pollRecords c x.busy x.last) failure

/-- The transcript of consecutive chunks or blocks, the first being number `k`. -/
def recordsFrom {α : Type} (f : Nat → α → List TxnRecord) : Nat → List α → List TxnRecord
  | _, [] => []
  | k, x :: xs => f k x ++ recordsFrom f (k + 1) xs

/-- The page of chunk or block `k` of a run that begins at page `p` and moves on by `stride` pages. -/
def pageAt (p : U32) (stride k : Nat) : U32 := p + BitVec.ofNat 32 (stride * k)

/-- The state a request ends in: the latch written with this kind, information, data and outcome, `Idle`, and nothing
else changed but the transcript (R32, R33, R310). -/
def State.endedWith (s : State) (kind : Byte) (info : U32) (dataOut : List Byte) (outcome : Result)
    (trace : List TxnRecord) : State :=
  { s with result := { kind := kind, info := info, dataOut := dataOut, outcome := some outcome }, phase := .idle,
           seq := none, bus := none, rx := none, trace := trace }

/-- The state a storage request ends in when a chunk or block fails (R268, R310): the error alone is reported, with its
code and information (R301) and no data. -/
def State.endedInError (s : State) (e : Err) (trace : List TxnRecord) : State :=
  s.endedWith (errKind e) (errInfo e) [] (.err e) trace

/-- A descriptor that spells no request (R123): a reserved byte, an unassigned `OP` (R121), or a data stream of the
wrong length. -/
def illFormed (d : Descriptor) : Prop :=
  d.rsvd ≠ 0x00#8 ∨ d.op = 0x00#8 ∨ (0x0F#8 ≤ d.op ∧ d.op ≤ 0x1F#8) ∨ (0x25#8 ≤ d.op ∧ d.op ≤ 0x2F#8) ∨
    0x32#8 ≤ d.op ∨ ((d.op = 0x08#8 ∨ d.op = 0x09#8 ∨ d.op = 0x21#8) ∧ d.dataIn.length ≠ d.b.toNat)

/-! ## The reference device takes a window (R92, R93) -/

/-- The attached device is the reference device, the next transaction is not one that fails, and the device is not
powered down. -/
def refReady (s : State) : Prop :=
  s.cfg.device = .reference ∧ s.cfg.ref.txnFail.contains s.dev.txnCount = false ∧ s.dev.poweredDown = false

/-- The same, and the device is not busy. -/
def refIdle (s : State) : Prop := refReady s ∧ s.dev.busyLeft = 0

/-- A page operation of the reference device is turned away: the page is outside the array, or the block-protect
field is not 0 (R99, R102). -/
def refForbids (s : State) (page : Nat) : Prop :=
  s.cfg.pageCount ≤ page ∨ (decodeSr1 s.cfg.layout s.dev.sr1).bp ≠ 0#4

/-! ## Invariants -/

/-- The device's memories are in canonical form and inside the spaces of R71 and R72. -/
def deviceMemoryOk (s : State) : Prop :=
  s.dev.array.wf ∧ s.dev.array.below (s.cfg.pageCount * s.cfg.bufSize) ∧
    s.dev.buf.wf ∧ s.dev.buf.below s.cfg.bufSize

/-- The scanner's state (R38, R290, R291): while a scan is active its bound is the last block's first page, and its
cursor is block-aligned and at most one block past the bound. -/
def scannerOk (s : State) : Prop :=
  s.scanActive = true →
    s.scanEnd.toNat = s.cfg.pageCount - 64 ∧ s.scanNextPage.toNat % 64 = 0 ∧
      s.scanNextPage.toNat ≤ s.cfg.pageCount

/-- The result latch holds a code of R301 (or the reset value 0xFF), and an error's latch holds no data (R310). -/
def latchOk (s : State) : Prop :=
  (s.result.kind.toNat ≤ 0x0A ∨ s.result.kind = 0xFF#8) ∧ (s.result.kind ≠ 0#8 → s.result.dataOut = [])

/-- A sequencer operation whose command is a framed wire command that fits the wire. -/
def opOk (c : Config) (op : Op) : Prop := framed (opCommand c op) = true ∧ (opCommand c op).wf c = true

/-- How many bytes an operation gathers for the request's `return`. -/
def gathers : Op → Nat
  | .readReg _ => 1
  | .readJedec => 3
  | .readData _ len => len.toNat
  | .send _ => 0
  | .checkWel => 0
  | .checkWelClear => 0
  | .poll _ _ => 0
  | .unprotRead => 0
  | .unprotWrite _ => 0
  | .unprotVerify => 0

/-- How many bytes a `return` needs; `none` where any number will do. -/
def needs : Tail → Option Nat
  | .ret .register => some 1
  | .ret .identity => some 3
  | .ret .marker => some 1
  | .ret (.item _) => some 3
  | .ret .unit => none
  | .ret .bytes => none
  | .readLoop _ => none
  | .writeLoop _ => none
  | .eraseBlocks _ => none
  | .eraseUpTo _ _ => none

/-- A transaction of the request in the latch is in flight or answered, and the bytes gathered are those the `return`
needs (R34, R36). -/
def inFlight (s : State) (q : Seq) : Prop :=
  (∃ i, decodeRequest s.desc = .ok i) ∧ (∀ o ∈ q.ops, opOk s.cfg o) ∧
  (∀ n, needs q.tail = some n → q.acc.length + (q.ops.map gathers).sum = n) ∧
  ∃ op rest, q.ops = op :: rest ∧
    ((s.bus = some (opStream s.cfg op) ∧ s.rx = none) ∨
      (s.bus = none ∧ ∃ r, s.rx = some r ∧
        ∀ bs, r = .ok bs → bs.length = keptLength (frame s.cfg (opCommand s.cfg op))))

/-- The sequencer, the bus and the phase agree (R33, R34): a request that has not begun, like an idle encoder, has
nothing on the bus, and one that has begun has a transaction. -/
def sequencerOk (s : State) : Prop :=
  match s.seq with
  | none => s.bus = none ∧ s.rx = none
  | some q => s.phase = .busy ∧ inFlight s q

end Sys2Proof.Machine
end

