-- ==== Sys2Proof/Certificates/Slice0/Obligations.lean ====
section
/-! DEFINITION. The statements about the model, for the provers. Each formalises the rules its docstring names. -/

open Host Sys2Proof Sys2Proof.Machine

/-! ## Encoding -/

/-- Decoding the spelling of a well-formed instruction gives it back, for every instruction, operand and admitted
configuration (R120–R124, R140–R157). The receiver's rule for the three OPEN opcodes is log 8 and log 16. -/
def Obligations.DecodeEncode : Prop :=
  ∀ (c : Config) (i : Instr), c.valid = true → i.wf c = true → decode c (encode c i) = .ok i

/-- R158: the 15 opcode parameters are pairwise distinct and `OPC_JEDEC = 0x9F`, and a configuration that breaks this
is refused. It holds whatever the free choice for an unbound parameter is. -/
def Obligations.CommandTableDistinct : Prop :=
  (∀ c : Config, c.valid = true →
    (commandTable c).length = 15 ∧ (commandTable c).Nodup ∧ c.opc.jedec = 0x9F#8) ∧
  ∀ s : State, ¬((commandTable s.cfg).Nodup ∧ s.cfg.opc.jedec = 0x9F#8) → step s = .refused .badConfig

/-- R7: the geometry constraint, that `CAPACITY` then fits in 32 bits, and the refusal of any other geometry. -/
def Obligations.GeometryRefused : Prop :=
  (∀ c : Config, c.valid = true →
    64 ≤ c.pageCount ∧ c.pageCount % 64 = 0 ∧ c.pageCount * 2048 ≤ 2 ^ 32 - 1 ∧ c.capacity < 2 ^ 32) ∧
  ∀ s : State, ¬(64 ≤ s.cfg.pageCount ∧ s.cfg.pageCount % 64 = 0 ∧ s.cfg.pageCount * 2048 ≤ 2 ^ 32 - 1) →
    step s = .refused .badConfig

/-- R123: exactly the ill-formed descriptors spell no request, and the encoder ends one with `BadRequest(word0)`
before any transaction: nothing but the latch and the phase changes. -/
def Obligations.IllegalDescriptors : Prop :=
  (∀ d : Descriptor, illFormed d ↔ ∀ i, decodeRequest d ≠ .ok i) ∧
  ∀ s : State, s.cfg.valid = true → s.bus = none → s.resetReq = false → s.phase = .busy → illFormed s.desc →
    step s = .next (s.endedWith 0x0A#8 (word0 s.desc) [] (.err (.badRequest (word0 s.desc))) s.trace)

/-- R120–R122: the layout of word 0, and the request of every assigned `OP`, whatever the fields it does not use
hold. -/
def Obligations.RequestTable : Prop :=
  (∀ d : Descriptor, ofWords (word0 d) d.a d.b d.dataIn = d ∧
    (word0 d).toNat = d.op.toNat + 2 ^ 8 * d.sel.toNat + 2 ^ 16 * d.val.toNat + 2 ^ 24 * d.rsvd.toNat) ∧
  ∀ (sel val : Byte) (a b : U32) (data : List Byte),
    decodeRequest ⟨0x01#8, sel, val, 0x00#8, a, b, data⟩ = .ok .reset ∧
    decodeRequest ⟨0x02#8, sel, val, 0x00#8, a, b, data⟩ = .ok .jedec ∧
    decodeRequest ⟨0x03#8, sel, val, 0x00#8, a, b, data⟩ = .ok .wren ∧
    decodeRequest ⟨0x04#8, sel, val, 0x00#8, a, b, data⟩ = .ok .wrdi ∧
    decodeRequest ⟨0x05#8, sel, val, 0x00#8, a, b, data⟩ = .ok (.rdreg sel) ∧
    decodeRequest ⟨0x06#8, sel, val, 0x00#8, a, b, data⟩ = .ok (.wrreg sel val) ∧
    decodeRequest ⟨0x07#8, sel, val, 0x00#8, a, b, data⟩ = .ok (.berase a) ∧
    (data.length = b.toNat → decodeRequest ⟨0x08#8, sel, val, 0x00#8, a, b, data⟩ = .ok (.pload a data)) ∧
    (data.length = b.toNat → decodeRequest ⟨0x09#8, sel, val, 0x00#8, a, b, data⟩ = .ok (.ploadr a data)) ∧
    decodeRequest ⟨0x0A#8, sel, val, 0x00#8, a, b, data⟩ = .ok (.pexec a) ∧
    decodeRequest ⟨0x0B#8, sel, val, 0x00#8, a, b, data⟩ = .ok (.pread a) ∧
    decodeRequest ⟨0x0C#8, sel, val, 0x00#8, a, b, data⟩ = .ok (.rdata a b) ∧
    decodeRequest ⟨0x0D#8, sel, val, 0x00#8, a, b, data⟩ = .ok .unprot ∧
    decodeRequest ⟨0x0E#8, sel, val, 0x00#8, a, b, data⟩ = .ok .pwrdn ∧
    decodeRequest ⟨0x20#8, sel, val, 0x00#8, a, b, data⟩ = .ok (.sread a b) ∧
    (data.length = b.toNat → decodeRequest ⟨0x21#8, sel, val, 0x00#8, a, b, data⟩ = .ok (.swrite a data)) ∧
    decodeRequest ⟨0x22#8, sel, val, 0x00#8, a, b, data⟩ = .ok (.serase a b) ∧
    decodeRequest ⟨0x23#8, sel, val, 0x00#8, a, b, data⟩ = .ok .scap ∧
    decodeRequest ⟨0x24#8, sel, val, 0x00#8, a, b, data⟩ = .ok (.bstat a) ∧
    decodeRequest ⟨0x30#8, sel, val, 0x00#8, a, b, data⟩ = .ok .scanst ∧
    decodeRequest ⟨0x31#8, sel, val, 0x00#8, a, b, data⟩ = .ok .scannx

/-- A few spellings written out bit by bit from R120 and R140–R152 decode to the instruction they stand for. The four
wire spellings hold under the default configuration alone: their opcodes 0xD8, 0x0F, 0x02 and 0x03 are R140's defaults
from general knowledge (PRESUMED, log 7), and the 2-byte column is R6's default. -/
def Obligations.SpecWords : Prop :=
  decodeRequest (ofWords 0x0004A006#32 0#32 0#32 []) = .ok (.wrreg 0xA0#8 0x04#8) ∧
  decodeRequest (ofWords 0x00000007#32 64#32 0#32 []) = .ok (.berase 64#32) ∧
  decodeRequest (ofWords 0x00000022#32 0#32 131072#32 []) = .ok (.serase 0#32 131072#32) ∧
  decodeRequest (ofWords 0x00000031#32 0#32 0#32 []) = .ok .scannx ∧
  decodeWire Config.default [0xD8#8, 0x00#8, 0x00#8, 0x40#8] = .ok (.blockEraseWire 64#24) ∧
  decodeWire Config.default [0x0F#8, 0xC0#8, 0x00#8] = .ok (.readRegWire 0xC0#8) ∧
  decodeWire Config.default [0x02#8, 0x00#8, 0x00#8, 0xAA#8, 0x55#8] =
    .ok (.loadProgramDataWire 0#24 [0xAA#8, 0x55#8]) ∧
  decodeWire Config.default [0x03#8, 0x08#8, 0x00#8, 0x00#8, 0x00#8] = .ok (.readDataWire 2048#24 1#32)

/-- R141–R153: the byte stream of every frame in one chip-select window, and which of the received bytes it keeps
(R156). -/
def Obligations.FrameStreams : Prop :=
  ∀ c : Config, c.valid = true → ∀ (sel val fill : Byte) (page col : U24) (data m : List Byte) (len : U32),
    (streamOf fill (frame c .resetWire) = [c.opc.reset] ∧ keptOf (frame c .resetWire) m = []) ∧
    (streamOf fill (frame c .jedecWire) = [0x9F#8, 0x00#8, fill, fill, fill] ∧
      keptOf (frame c .jedecWire) m = (m.drop 2).take 3) ∧
    (streamOf fill (frame c (.readRegWire sel)) = [c.opc.readReg, sel, 0x00#8] ∧
      keptOf (frame c (.readRegWire sel)) m = m.take 3) ∧
    (streamOf fill (frame c (.writeRegWire sel val)) = [c.opc.writeReg, sel, val] ∧
      keptOf (frame c (.writeRegWire sel val)) m = []) ∧
    (streamOf fill (frame c .writeEnableWire) = [c.opc.writeEnable] ∧ keptOf (frame c .writeEnableWire) m = []) ∧
    (streamOf fill (frame c .writeDisableWire) = [c.opc.writeDisable] ∧
      keptOf (frame c .writeDisableWire) m = []) ∧
    (streamOf fill (frame c (.blockEraseWire page)) = c.opc.blockErase :: be3 page ∧
      keptOf (frame c (.blockEraseWire page)) m = []) ∧
    (streamOf fill (frame c (.loadProgramDataWire col data)) = c.opc.loadProgramData :: (colStream c col ++ data) ∧
      keptOf (frame c (.loadProgramDataWire col data)) m = []) ∧
    (streamOf fill (frame c (.randomLoadProgramDataWire col data)) =
        c.opc.randomLoadProgramData :: (colStream c col ++ data) ∧
      keptOf (frame c (.randomLoadProgramDataWire col data)) m = []) ∧
    (streamOf fill (frame c (.programExecuteWire page)) = c.opc.programExecute :: be3 page ∧
      keptOf (frame c (.programExecuteWire page)) m = []) ∧
    (streamOf fill (frame c (.pageDataReadWire page)) = c.opc.pageDataRead :: be3 page ∧
      keptOf (frame c (.pageDataReadWire page)) m = []) ∧
    (streamOf fill (frame c (.readDataWire col len)) =
        c.opc.readData :: (colStream c col ++ [0x00#8]) ++ List.replicate len.toNat fill ∧
      keptOf (frame c (.readDataWire col len)) m = (m.drop (2 + c.colBytes)).take len.toNat) ∧
    (streamOf fill (frame c .powerDownWire) = [powerDownOpcode c] ∧ keptOf (frame c .powerDownWire) m = [])

/-! ## Address codecs -/

/-- R172. -/
def Obligations.FloorRoundTrip : Prop :=
  ∀ x : U32, (toByteAddress (fromByteAddress x)).toNat = x.toNat - x.toNat % 2048

/-- R178: how many addresses the generator yields, and which; asked for more, it gives no more. -/
def Obligations.GeneratorCount : Prop :=
  ∀ start last : U32,
    (start.toNat ≤ last.toNat → last.toNat < 2 ^ 32 - 64 → ∀ n : Nat,
      (blocksTake ((last.toNat - start.toNat) / 64 + 1 + n) (blocks start last)).map BitVec.toNat =
        (List.range ((last.toNat - start.toNat) / 64 + 1)).map (fun i => start.toNat + 64 * i)) ∧
    (last.toNat < start.toNat → ∀ n : Nat, blocksTake n (blocks start last) = [])

/-- R177: for every pair of bounds the generator is finite, rises, stays inside the bound and keeps the start's
distance from a block; once it has answered `None`, it answers `None`. -/
def Obligations.GeneratorFinite : Prop :=
  (∀ (start last : U32) (n : Nat),
    (blocksTake n (blocks start last)).length ≤ 2 ^ 26 ∧
    ((blocksTake n (blocks start last)).map BitVec.toNat).Pairwise (· < ·) ∧
    ∀ p ∈ blocksTake n (blocks start last),
      start.toNat ≤ p.toNat ∧ p.toNat ≤ last.toNat ∧ p.toNat % 64 = start.toNat % 64) ∧
  ∀ g : BlockGen, (blocksNext g).1 = none → (blocksNext (blocksNext g).2).1 = none

/-- R170, R171, R173–R176, R179: the codecs as arithmetic. -/
def Obligations.AddressCodecs : Prop :=
  (∀ off : U32, (fromByteAddress off).toNat = off.toNat / 2048 ∧ (columnOf off).toNat = off.toNat % 2048) ∧
  (∀ p : U32, (toByteAddress p).toNat = p.toNat * 2048 % 2 ^ 32) ∧
  (∀ p : U32, serPage p = [p.extractLsb' 16 8, p.extractLsb' 8 8, p.extractLsb' 0 8]) ∧
  (∀ (c : Config) (col : U32), c.colWidth = .two → serCol c col = [col.extractLsb' 8 8, col.extractLsb' 0 8]) ∧
  (∀ (c : Config) (col : U32), c.colWidth = .three →
    serCol c col = [col.extractLsb' 16 8, col.extractLsb' 8 8, col.extractLsb' 0 8]) ∧
  (∀ cur : U32, (incrementPage cur).1 = cur ∧ (incrementPage cur).2.toNat = (cur.toNat + 1) % 2 ^ 32) ∧
  (∀ cur : U32, (incrementBlock cur).1 = cur ∧ (incrementBlock cur).2.toNat = (cur.toNat + 64) % 2 ^ 32) ∧
  (∀ n : Nat, ((fun cur => (incrementBlock cur).2)^[n] 0#32).toNat = 64 * n % 2 ^ 32) ∧
  (∀ p : U32, (firstPage (blockOf p)).toNat = p.toNat - p.toNat % 64 ∧ (pageInBlock p).toNat = p.toNat % 64) ∧
  ∀ off : U32, offsetBlockAligned off = (pageBlockAligned (fromByteAddress off) && decide (off.toNat % 2048 = 0))

/-! ## Status registers and identity -/

/-- R200: the mask, `get` and `set`, and the laws between them. -/
def Obligations.FieldLaws : Prop :=
  ∀ (b v : Byte) (f : Field), f.lo ≤ f.hi → f.hi ≤ 7 →
    (fieldMask f).toNat = (2 ^ (f.hi - f.lo + 1) - 1) * 2 ^ f.lo ∧
    fieldGet b f = (b &&& fieldMask f) >>> f.lo ∧
    fieldSet b f v = (b &&& ~~~fieldMask f) ||| ((v <<< f.lo) &&& fieldMask f) ∧
    (fieldGet b f).toNat = b.toNat / 2 ^ f.lo % 2 ^ (f.hi - f.lo + 1) ∧
    (fieldGet (fieldSet b f v) f).toNat = v.toNat % 2 ^ (f.hi - f.lo + 1) ∧
    ∀ i, i < f.lo ∨ f.hi < i → (fieldSet b f v).getLsbD i = b.getLsbD i

/-- R202, R205, R207: decoding and encoding undo each other, for every layout whose fields cover the byte. -/
def Obligations.StatusRoundTrip : Prop :=
  ∀ l : SrLayout, l.ok = true →
    (∀ b : Byte, encodeSr1 l (decodeSr1 l b) = b ∧ encodeSr2 l (decodeSr2 l b) = b ∧
      encodeSr3 l (decodeSr3 l b) = b) ∧
    (∀ r : Status1, decodeSr1 l (encodeSr1 l r) = r) ∧
    (∀ r : Status2, decodeSr2 l (encodeSr2 l r) = r) ∧
    ∀ r : Status3, decodeSr3 l (encodeSr3 l r) = r

/-- R201, R204, R206: the fields under the default layout, which is the spec's default and from general knowledge
(log 7). -/
def Obligations.DefaultLayoutFields : Prop :=
  ∀ b : Byte,
    decodeSr1 {} b = { srp0 := b.extractLsb' 7 1, bp := b.extractLsb' 3 4, tb := b.extractLsb' 2 1,
                       wpE := b.extractLsb' 1 1, srp1 := b.extractLsb' 0 1 } ∧
    decodeSr2 {} b = { otpL := b.extractLsb' 7 1, otpE := b.extractLsb' 6 1, sr1L := b.extractLsb' 5 1,
                       eccE := b.extractLsb' 4 1, buf := b.extractLsb' 3 1, rsvd2 := b.extractLsb' 0 3 } ∧
    decodeSr3 {} b = { rsvd3 := b.extractLsb' 7 1, lutF := b.extractLsb' 6 1, ecc := b.extractLsb' 4 2,
                       pFail := b.extractLsb' 3 1, eFail := b.extractLsb' 2 1, wel := b.extractLsb' 1 1,
                       busy := b.extractLsb' 0 1 } ∧
    ∀ i, i < 4 → bpBit (decodeSr1 {} b) i = b.getLsbD (3 + i)

/-- R203: clearing the block-protect field, for every layout. The last clause is about the default layout alone, which
is the spec's default and from general knowledge (PRESUMED, log 7). -/
def Obligations.ClearBlockProtect : Prop :=
  (∀ (l : SrLayout) (b : Byte), clearBp l b = fieldSet b l.bp 0x00#8) ∧
  (∀ (l : SrLayout) (b : Byte), l.ok = true →
    decodeSr1 l (clearBp l b) = { decodeSr1 l b with bp := 0#4 } ∧ clearBp l (clearBp l b) = clearBp l b) ∧
  ∀ b : Byte, clearBp {} b = b &&& 0x87#8

/-- R208: the identity's parts; recognition reads the code alone; an unknown code is no error. -/
def Obligations.JedecDecode : Prop :=
  (∀ (known : List (U16 × String)) (b0 b1 b2 : Byte),
    (jedecDecode known b0 b1 b2).mfr = b0 ∧
    (jedecDecode known b0 b1 b2).code.toNat = 2 ^ 8 * b1.toNat + b2.toNat ∧
    ((jedecDecode known b0 b1 b2).name = .unknown ↔
      (jedecDecode known b0 b1 b2).code ∉ known.map Prod.fst) ∧
    (∀ name, (jedecDecode known b0 b1 b2).name = .known name →
      ((jedecDecode known b0 b1 b2).code, name) ∈ known) ∧
    ∀ b0', (jedecDecode known b0' b1 b2).name = (jedecDecode known b0 b1 b2).name) ∧
  ∀ (c : Config) (b0 : Byte), c.valid = true →
    (∃ name, (jedecDecode c.knownDevices b0 0xAA#8 0x22#8).name = .known name) ∧
    (jedecDecode c.knownDevices b0 0x00#8 0x00#8).name = .unknown

/-! ## Wire commands: the device's turn -/

/-- R11, R12, R36: attached to the oracle, every wire command completes. Only the transport, the transcript and the
device change; what comes back is a transport error, or as many bytes as the frame keeps. The two table constants
without a frame are answered as one-byte windows (log 16). -/
def Obligations.OracleAnswers : Prop :=
  ∀ (i : Instr) (s : State), isRequest i = false → s.cfg.device = .oracle →
    ∃ sent got d, encode s.cfg i = .stream sent ∧ exec i s = .next (s.closeWindow sent got d) ∧
      d.txnCount = s.dev.txnCount + 1 ∧
      ((∃ t, got = .err t) ∨ ∃ kept, got = .ok kept ∧ kept.length = keptLength (frame s.cfg i))

/-- R94, R98, R105 on the reference device: `RESET` clears Status3 and the busy count, write-enable and write-disable
set and clear `wel` alone, and power-down is entered. -/
def Obligations.RefControl : Prop :=
  ∀ s : State, s.cfg.valid = true → refIdle s →
    exec .resetWire s = .next (s.closeWindow [s.cfg.opc.reset] (.ok [])
      { s.dev with sr3 := 0x00#8, busyLeft := 0, txnCount := s.dev.txnCount + 1 }) ∧
    (∃ v, decodeSr3 s.cfg.layout v = { decodeSr3 s.cfg.layout s.dev.sr3 with wel := 1#1 } ∧
      exec .writeEnableWire s = .next (s.closeWindow [s.cfg.opc.writeEnable] (.ok [])
        { s.dev with sr3 := v, txnCount := s.dev.txnCount + 1 })) ∧
    (∃ v, decodeSr3 s.cfg.layout v = { decodeSr3 s.cfg.layout s.dev.sr3 with wel := 0#1 } ∧
      exec .writeDisableWire s = .next (s.closeWindow [s.cfg.opc.writeDisable] (.ok [])
        { s.dev with sr3 := v, txnCount := s.dev.txnCount + 1 })) ∧
    exec .powerDownWire s = .next (s.closeWindow [powerDownOpcode s.cfg] (.ok [])
      { s.dev with poweredDown := true, txnCount := s.dev.txnCount + 1 })

/-- R95, R104 on the reference device: the identity and the buffer are read; nothing of the device changes but the
transaction count. -/
def Obligations.RefReads : Prop :=
  ∀ s : State, s.cfg.valid = true → refIdle s →
    exec .jedecWire s = .next (s.closeWindow [0x9F#8, 0x00#8, s.cfg.rxFill, s.cfg.rxFill, s.cfg.rxFill]
      (.ok [s.cfg.ref.jedecId0, s.cfg.ref.jedecId1, s.cfg.ref.jedecId2])
      { s.dev with txnCount := s.dev.txnCount + 1 }) ∧
    ∀ (col : U24) (len : U32), fitsColumn s.cfg col = true →
      exec (.readDataWire col len) s = .next (s.closeWindow
        (s.cfg.opc.readData :: (colStream s.cfg col ++ [0x00#8]) ++ List.replicate len.toNat s.cfg.rxFill)
        (.ok ((List.range len.toNat).map fun i =>
          if col.toNat + i < s.cfg.bufSize then s.dev.buf.read (col.toNat + i) else 0xFF#8))
        { s.dev with txnCount := s.dev.txnCount + 1 })

/-- R96, R97 on the reference device: a register read answers the selected register, Status3 with `busy` as the busy
count says, and only a Status3 read counts down; a register write stores Status1 or Status2 whole and nothing else. -/
def Obligations.RefRegisters : Prop :=
  ∀ (s : State) (sel val : Byte), s.cfg.valid = true → refReady s →
    (s.dev.busyLeft = 0 ∨ sel = 0xC0#8 →
      ∃ v, exec (.readRegWire sel) s = .next (s.closeWindow [s.cfg.opc.readReg, sel, 0x00#8]
          (.ok [0xFF#8, 0xFF#8, v])
          { s.dev with busyLeft := if sel = 0xC0#8 then s.dev.busyLeft - 1 else s.dev.busyLeft,
                       txnCount := s.dev.txnCount + 1 }) ∧
        (sel = 0xA0#8 → v = s.dev.sr1) ∧ (sel = 0xB0#8 → v = s.dev.sr2) ∧
        (sel = 0xC0#8 → decodeSr3 s.cfg.layout v =
          { decodeSr3 s.cfg.layout s.dev.sr3 with busy := if 0 < s.dev.busyLeft then 1#1 else 0#1 }) ∧
        (sel ≠ 0xA0#8 → sel ≠ 0xB0#8 → sel ≠ 0xC0#8 → v = 0x00#8)) ∧
    (s.dev.busyLeft = 0 →
      exec (.writeRegWire sel val) s = .next (s.closeWindow [s.cfg.opc.writeReg, sel, val] (.ok [])
        { s.dev with sr1 := if sel = 0xA0#8 then val else s.dev.sr1,
                     sr2 := if sel = 0xB0#8 then val else s.dev.sr2,
                     txnCount := s.dev.txnCount + 1 }))

/-- R99 on the reference device: without `wel` nothing happens; a forbidden or failing erase sets `e_fail` and leaves
every byte of the array; any other erases the 64 pages of the block and leaves every other byte. `wel` is cleared
and the device is busy; nothing else changes. -/
def Obligations.RefErase : Prop :=
  ∀ (s : State) (page : U24), s.cfg.valid = true → refIdle s →
    ∃ d, exec (.blockEraseWire page) s = .next (s.closeWindow (s.cfg.opc.blockErase :: be3 page) (.ok []) d) ∧
      d = { s.dev with array := d.array, sr3 := d.sr3, busyLeft := d.busyLeft,
                       txnCount := s.dev.txnCount + 1 } ∧
      ((decodeSr3 s.cfg.layout s.dev.sr3).wel = 0#1 → d = { s.dev with txnCount := s.dev.txnCount + 1 }) ∧
      ((decodeSr3 s.cfg.layout s.dev.sr3).wel = 1#1 →
        d.busyLeft = s.cfg.ref.busyPolls ∧
        (refForbids s page.toNat ∨ page.toNat / 64 ∈ s.cfg.ref.failErase →
          d.array = s.dev.array ∧
          decodeSr3 s.cfg.layout d.sr3 =
            { decodeSr3 s.cfg.layout s.dev.sr3 with eFail := 1#1, wel := 0#1 }) ∧
        (¬refForbids s page.toNat → page.toNat / 64 ∉ s.cfg.ref.failErase →
          decodeSr3 s.cfg.layout d.sr3 =
            { decodeSr3 s.cfg.layout s.dev.sr3 with eFail := 0#1, wel := 0#1 } ∧
          ∀ a, d.array.read a =
            if 64 * (page.toNat / 64) * s.cfg.bufSize ≤ a ∧
                a < 64 * (page.toNat / 64) * s.cfg.bufSize + 64 * s.cfg.bufSize then 0xFF#8
            else s.dev.array.read a))

/-- R100, R101 on the reference device: a load changes the buffer alone, and only with `wel` set; bytes past the
buffer's end are dropped; the plain load fills the rest with 0xFF, the random load keeps it. -/
def Obligations.RefLoads : Prop :=
  ∀ (s : State) (col : U24) (data : List Byte), s.cfg.valid = true → refIdle s → fitsColumn s.cfg col = true →
    (∃ d, exec (.loadProgramDataWire col data) s =
        .next (s.closeWindow (s.cfg.opc.loadProgramData :: (colStream s.cfg col ++ data)) (.ok []) d) ∧
      d = { s.dev with buf := d.buf, txnCount := s.dev.txnCount + 1 } ∧
      ((decodeSr3 s.cfg.layout s.dev.sr3).wel = 0#1 → d.buf = s.dev.buf) ∧
      ((decodeSr3 s.cfg.layout s.dev.sr3).wel = 1#1 → ∀ a, d.buf.read a =
        if col.toNat ≤ a ∧ a < col.toNat + data.length ∧ a < s.cfg.bufSize then data.getD (a - col.toNat) 0xFF#8
        else 0xFF#8)) ∧
    ∃ d, exec (.randomLoadProgramDataWire col data) s =
        .next (s.closeWindow (s.cfg.opc.randomLoadProgramData :: (colStream s.cfg col ++ data)) (.ok []) d) ∧
      d = { s.dev with buf := d.buf, txnCount := s.dev.txnCount + 1 } ∧
      ((decodeSr3 s.cfg.layout s.dev.sr3).wel = 0#1 → d.buf = s.dev.buf) ∧
      ((decodeSr3 s.cfg.layout s.dev.sr3).wel = 1#1 → ∀ a, d.buf.read a =
        if col.toNat ≤ a ∧ a < col.toNat + data.length ∧ a < s.cfg.bufSize then data.getD (a - col.toNat) 0xFF#8
        else s.dev.buf.read a)

/-- R102 on the reference device: without `wel` nothing happens; a forbidden or failing program sets `p_fail` and
leaves every byte of the array; any other stores the buffer in the page, whole or ANDed, and leaves every other
byte. `wel` is cleared and the device is busy; the buffer and the rest stay. -/
def Obligations.RefProgram : Prop :=
  ∀ (s : State) (page : U24), s.cfg.valid = true → refIdle s → deviceMemoryOk s →
    ∃ d, exec (.programExecuteWire page) s =
        .next (s.closeWindow (s.cfg.opc.programExecute :: be3 page) (.ok []) d) ∧
      d = { s.dev with array := d.array, sr3 := d.sr3, busyLeft := d.busyLeft,
                       txnCount := s.dev.txnCount + 1 } ∧
      ((decodeSr3 s.cfg.layout s.dev.sr3).wel = 0#1 → d = { s.dev with txnCount := s.dev.txnCount + 1 }) ∧
      ((decodeSr3 s.cfg.layout s.dev.sr3).wel = 1#1 →
        d.busyLeft = s.cfg.ref.busyPolls ∧
        (refForbids s page.toNat ∨ page.toNat ∈ s.cfg.ref.failProgram →
          d.array = s.dev.array ∧
          decodeSr3 s.cfg.layout d.sr3 =
            { decodeSr3 s.cfg.layout s.dev.sr3 with pFail := 1#1, wel := 0#1 }) ∧
        (¬refForbids s page.toNat → page.toNat ∉ s.cfg.ref.failProgram →
          decodeSr3 s.cfg.layout d.sr3 =
            { decodeSr3 s.cfg.layout s.dev.sr3 with pFail := 0#1, wel := 0#1 } ∧
          ∀ a, d.array.read a =
            if page.toNat * s.cfg.bufSize ≤ a ∧ a < page.toNat * s.cfg.bufSize + s.cfg.bufSize then
              (match s.cfg.ref.programSemantics with
                | .overwrite => s.dev.buf.read (a - page.toNat * s.cfg.bufSize)
                | .andMask => s.dev.array.read a &&& s.dev.buf.read (a - page.toNat * s.cfg.bufSize))
            else s.dev.array.read a))

/-- R103 on the reference device: the page comes into the buffer, or 0xFF for a page outside the array; `ecc` is
cleared and the device is busy; the array and the rest stay. -/
def Obligations.RefPageRead : Prop :=
  ∀ (s : State) (page : U24), s.cfg.valid = true → refIdle s →
    ∃ d, exec (.pageDataReadWire page) s = .next (s.closeWindow (s.cfg.opc.pageDataRead :: be3 page) (.ok []) d) ∧
      d = { s.dev with buf := d.buf, sr3 := d.sr3, busyLeft := s.cfg.ref.busyPolls,
                       txnCount := s.dev.txnCount + 1 } ∧
      decodeSr3 s.cfg.layout d.sr3 = { decodeSr3 s.cfg.layout s.dev.sr3 with ecc := 0#2 } ∧
      ∀ a, d.buf.read a =
        if page.toNat < s.cfg.pageCount ∧ a < s.cfg.bufSize then s.dev.array.read (page.toNat * s.cfg.bufSize + a)
        else 0xFF#8

/-- R92, R93 on the reference device: a transaction listed in `TXN_FAIL` returns a transport error and has no effect;
a powered-down device refuses every transaction, and a busy one every transaction but a Status3 read; a window that
holds one of the two table constants without a frame is answered and has no effect (log 16). -/
def Obligations.RefFailsOrRefuses : Prop :=
  (∀ (s : State) (i : Instr) (sent : List Byte), s.cfg.valid = true → s.cfg.device = .reference →
    encode s.cfg i = .stream sent →
    (s.dev.txnCount ∈ s.cfg.ref.txnFail →
      ∃ t, exec i s = .next (s.closeWindow sent (.err t) { s.dev with txnCount := s.dev.txnCount + 1 })) ∧
    (s.dev.txnCount ∉ s.cfg.ref.txnFail → s.dev.poweredDown = true → exec i s = .refused .devicePoweredDown) ∧
    (s.dev.txnCount ∉ s.cfg.ref.txnFail → s.dev.poweredDown = false → 0 < s.dev.busyLeft →
      i ≠ .readRegWire 0xC0#8 → exec i s = .refused .deviceBusy)) ∧
  ∀ s : State, s.cfg.valid = true → refIdle s →
    exec .releasePowerDownWire s = .next (s.closeWindow [releaseOpcode s.cfg] (.ok [])
      { s.dev with txnCount := s.dev.txnCount + 1 }) ∧
    exec .softwareResetWire s = .next (s.closeWindow [softwareResetOpcode s.cfg] (.ok [])
      { s.dev with txnCount := s.dev.txnCount + 1 })

/-! ## Driver Core requests, under any draws of the device -/

/-- R210, R213, R224: RESET, WRREG and PWRDN are one transaction each, and nothing is checked after it. -/
def Obligations.PlainRequests : Prop :=
  ∀ s : State, s.seq = none →
    (∃ u, exec .reset s = .next u ∧ requestRun .reset [.ok []] u =
      .next (s.endedWith 0x00#8 0#32 [] (.ok .unit) (s.trace ++ [sentRecord [s.cfg.opc.reset]]))) ∧
    (∀ sel val, ∃ u, exec (.wrreg sel val) s = .next u ∧ requestRun (.wrreg sel val) [.ok []] u =
      .next (s.endedWith 0x00#8 0#32 [] (.ok .unit)
        (s.trace ++ [sentRecord [s.cfg.opc.writeReg, sel, val]]))) ∧
    ∃ u, exec .pwrdn s = .next u ∧ requestRun .pwrdn [.ok []] u =
      .next (s.endedWith 0x00#8 0#32 [] (.ok .unit) (s.trace ++ [sentRecord [powerDownOpcode s.cfg]]))

/-- R211, R221, R222: RDREG returns the third byte whatever the select is, JEDEC the decoded identity, RDATA the
bytes the device sent; with R127's `INFO` and `DATA_OUT`. -/
def Obligations.ReadingRequests : Prop :=
  ∀ s : State, s.seq = none →
    (∀ (sel : Byte) (x : RegRead), ∃ u, exec (.rdreg sel) s = .next u ∧ requestRun (.rdreg sel) [x.draw] u =
      .next (s.endedWith 0x00#8 (x.value.setWidth 32) [x.value] (.ok (.register x.value))
        (s.trace ++ [regRecord s.cfg sel x]))) ∧
    (∀ b0 b1 b2 : Byte, ∃ u, exec .jedec s = .next u ∧ requestRun .jedec [.ok [b0, b1, b2]] u =
      .next (s.endedWith 0x00#8
        ((if (b1 ++ b2 : U16) ∈ s.cfg.knownDevices.map Prod.fst then 0x01#8 else 0x00#8) ++ b0 ++ (b1 ++ b2 : U16))
        [] (.ok (.identity (jedecDecode s.cfg.knownDevices b0 b1 b2)))
        (s.trace ++ [{ sent := [s.cfg.opc.jedec, 0x00#8, s.cfg.rxFill, s.cfg.rxFill, s.cfg.rxFill],
                       got := .ok [b0, b1, b2] }]))) ∧
    ∀ (col len : U32) (bytes : List Byte), bytes.length = len.toNat →
      ∃ u, exec (.rdata col len) s = .next u ∧ requestRun (.rdata col len) [.ok bytes] u =
        .next (s.endedWith 0x00#8 len bytes (.ok (.bytes bytes)) (s.trace ++ [readRecord s.cfg col bytes]))

/-- R214, R215, R303, R304: WREN and WRDI send their command and read Status3 once; `wel` in that one snapshot decides
between `Ok` and the error, which carries the snapshot. -/
def Obligations.WriteLatchRequests : Prop :=
  ∀ (s : State) (x : RegRead), s.seq = none →
    (∃ u, exec .wren s = .next u ∧
      ((decodeSr3 s.cfg.layout x.value).wel = 1#1 → requestRun .wren [.ok [], x.draw] u =
        .next (s.endedWith 0x00#8 0#32 [] (.ok .unit) (s.trace ++ weRecords s.cfg x))) ∧
      ((decodeSr3 s.cfg.layout x.value).wel = 0#1 → requestRun .wren [.ok [], x.draw] u =
        .next (s.endedWith 0x02#8 (x.value.setWidth 32) [] (.err (.writeEnable x.value))
          (s.trace ++ weRecords s.cfg x)))) ∧
    ∃ u, exec .wrdi s = .next u ∧
      ((decodeSr3 s.cfg.layout x.value).wel = 0#1 → requestRun .wrdi [.ok [], x.draw] u =
        .next (s.endedWith 0x00#8 0#32 [] (.ok .unit)
          (s.trace ++ [sentRecord [s.cfg.opc.writeDisable], regRecord s.cfg 0xC0#8 x]))) ∧
      ((decodeSr3 s.cfg.layout x.value).wel = 1#1 → requestRun .wrdi [.ok [], x.draw] u =
        .next (s.endedWith 0x03#8 (x.value.setWidth 32) [] (.err (.writeDisable x.value))
          (s.trace ++ [sentRecord [s.cfg.opc.writeDisable], regRecord s.cfg 0xC0#8 x])))

/-- R216, R303, R305: BERASE. With `wel` seen set, the erase is sent and polled for as long as the device is busy, and
`e_fail` of the last snapshot alone decides (R314); with `wel` seen clear, no erase command is sent. -/
def Obligations.BlockErase : Prop :=
  ∀ (s : State) (page : U32) (x : WriteDraw), s.seq = none →
    ∃ u, exec (.berase page) s = .next u ∧
      (x.runs s.cfg → (decodeSr3 s.cfg.layout x.last.value).eFail = 0#1 →
        requestRun (.berase page) x.blockDraws u = .next (s.endedWith 0x00#8 0#32 [] (.ok .unit)
          (s.trace ++ x.blockRecords s.cfg page))) ∧
      (x.runs s.cfg → (decodeSr3 s.cfg.layout x.last.value).eFail = 1#1 →
        requestRun (.berase page) x.blockDraws u = .next (s.endedWith 0x04#8 page [] (.err (.eraseFailure page))
          (s.trace ++ x.blockRecords s.cfg page))) ∧
      ((decodeSr3 s.cfg.layout x.we.value).wel = 0#1 →
        requestRun (.berase page) [.ok [], x.we.draw] u =
          .next (s.endedWith 0x02#8 (x.we.value.setWidth 32) [] (.err (.writeEnable x.we.value))
            (s.trace ++ weRecords s.cfg x.we)))

/-- R217, R218, R303: PLOAD and PLOADR are the write-enable sequence and one load with the data as given; no check
follows the load, and with `wel` seen clear no load is sent. -/
def Obligations.Loads : Prop :=
  ∀ (s : State) (col : U32) (data : List Byte) (x : RegRead), s.seq = none →
    (∃ u, exec (.pload col data) s = .next u ∧
      ((decodeSr3 s.cfg.layout x.value).wel = 1#1 → requestRun (.pload col data) [.ok [], x.draw, .ok []] u =
        .next (s.endedWith 0x00#8 0#32 [] (.ok .unit) (s.trace ++ (weRecords s.cfg x ++
          [sentRecord (s.cfg.opc.loadProgramData :: (serCol s.cfg col ++ data))])))) ∧
      ((decodeSr3 s.cfg.layout x.value).wel = 0#1 → requestRun (.pload col data) [.ok [], x.draw] u =
        .next (s.endedWith 0x02#8 (x.value.setWidth 32) [] (.err (.writeEnable x.value))
          (s.trace ++ weRecords s.cfg x)))) ∧
    ∃ u, exec (.ploadr col data) s = .next u ∧
      ((decodeSr3 s.cfg.layout x.value).wel = 1#1 → requestRun (.ploadr col data) [.ok [], x.draw, .ok []] u =
        .next (s.endedWith 0x00#8 0#32 [] (.ok .unit) (s.trace ++ (weRecords s.cfg x ++
          [sentRecord (s.cfg.opc.randomLoadProgramData :: (serCol s.cfg col ++ data))])))) ∧
      ((decodeSr3 s.cfg.layout x.value).wel = 0#1 → requestRun (.ploadr col data) [.ok [], x.draw] u =
        .next (s.endedWith 0x02#8 (x.value.setWidth 32) [] (.err (.writeEnable x.value))
          (s.trace ++ weRecords s.cfg x)))

/-- R219, R306: PEXEC issues no write-enable; `p_fail` of the last poll snapshot alone decides (R314). -/
def Obligations.ProgramExecute : Prop :=
  ∀ (s : State) (page : U32) (busy : List RegRead) (last : RegRead), s.seq = none → pollEnds s.cfg busy last →
    ∃ u, exec (.pexec page) s = .next u ∧
      ((decodeSr3 s.cfg.layout last.value).pFail = 0#1 →
        requestRun (.pexec page) (.ok [] :: pollDraws busy last) u = .next (s.endedWith 0x00#8 0#32 [] (.ok .unit)
          (s.trace ++ sentRecord (s.cfg.opc.programExecute :: serPage page) :: pollRecords s.cfg busy last))) ∧
      ((decodeSr3 s.cfg.layout last.value).pFail = 1#1 →
        requestRun (.pexec page) (.ok [] :: pollDraws busy last) u =
          .next (s.endedWith 0x05#8 page [] (.err (.programFailure page))
            (s.trace ++ sentRecord (s.cfg.opc.programExecute :: serPage page) :: pollRecords s.cfg busy last)))

/-- R220, R209: PREAD issues no write-enable and checks no flag of the last snapshot, `ecc` included. -/
def Obligations.PageDataRead : Prop :=
  ∀ (s : State) (page : U32) (busy : List RegRead) (last : RegRead), s.seq = none → pollEnds s.cfg busy last →
    ∃ u, exec (.pread page) s = .next u ∧
      requestRun (.pread page) (.ok [] :: pollDraws busy last) u = .next (s.endedWith 0x00#8 0#32 [] (.ok .unit)
        (s.trace ++ sentRecord (s.cfg.opc.pageDataRead :: serPage page) :: pollRecords s.cfg busy last))

/-- R223, R307: UNPROT reads Status1, writes it back with `bp` cleared, ignores whatever the write returned, reads
Status1 again, and fails exactly when that snapshot's `bp` is not 0. -/
def Obligations.Unprotect : Prop :=
  ∀ (s : State) (x y : RegRead) (w : TxnResult), s.seq = none →
    ∃ u, exec .unprot s = .next u ∧
      ((decodeSr1 s.cfg.layout y.value).bp = 0#4 → requestRun .unprot [x.draw, w, y.draw] u =
        .next (s.endedWith 0x00#8 0#32 [] (.ok .unit) (s.trace ++ [regRecord s.cfg 0xA0#8 x,
          { sent := [s.cfg.opc.writeReg, 0xA0#8, clearBp s.cfg.layout x.value], got := w },
          regRecord s.cfg 0xA0#8 y]))) ∧
      ((decodeSr1 s.cfg.layout y.value).bp ≠ 0#4 → requestRun .unprot [x.draw, w, y.draw] u =
        .next (s.endedWith 0x06#8 ((decodeSr1 s.cfg.layout y.value).bp.setWidth 32) []
          (.err (.blockProtect (decodeSr1 s.cfg.layout y.value).bp)) (s.trace ++ [regRecord s.cfg 0xA0#8 x,
            { sent := [s.cfg.opc.writeReg, 0xA0#8, clearBp s.cfg.layout x.value], got := w },
            regRecord s.cfg 0xA0#8 y])))

/-- R262, R290, R291, R333: SCAP, SCANST, and SCANNX with no scan active or past its bound send nothing and end at
once; only the scanner's own state moves. -/
def Obligations.QuietRequests : Prop :=
  ∀ s : State, s.seq = none →
    exec .scap s = .next (s.endedWith 0x00#8 (BitVec.ofNat 32 (2048 * s.cfg.pageCount)) []
      (.ok (.number (2048 * s.cfg.pageCount))) s.trace) ∧
    exec .scanst s = .next { s.endedWith 0x00#8 0#32 [] (.ok .unit) s.trace with
      scanActive := true, scanNextPage := 0#32, scanEnd := BitVec.ofNat 32 (s.cfg.pageCount - 64) } ∧
    (s.scanActive = false ∨ s.scanEnd.toNat < s.scanNextPage.toNat →
      exec .scannx s = .next { s.endedWith 0x00#8 0xFFFFFFFF#32 [] (.ok (.item .finished)) s.trace with
        scanActive := false })

/-! ## Storage requests and the scanner -/

/-- R266: BSTAT reads the page that holds the offset, unchecked, and its marker byte; 0xFF is good, any other value
failed. -/
def Obligations.BlockStatusRequest : Prop :=
  ∀ (s : State) (off : U32) (busy : List RegRead) (last : RegRead) (m : Byte), s.seq = none →
    pollEnds s.cfg busy last →
    ∃ u, exec (.bstat off) s = .next u ∧
      requestRun (.bstat off) (.ok [] :: (pollDraws busy last ++ [.ok [m]])) u =
        .next (s.endedWith 0x00#8 (if m = 0xFF#8 then 1#32 else 0#32) []
          (.ok (.blockStatus (if m = 0xFF#8 then .good else .failed)))
          (s.trace ++ sentRecord (s.cfg.opc.pageDataRead :: serPage (fromByteAddress off)) ::
            (pollRecords s.cfg busy last ++ [readRecord s.cfg 2048#32 [m]])))

/-- R263: SREAD of any number of chunks reads page after page into the buffer and the buffer out, and returns the
bytes in order. (`CUR` and `K` end at values that R35 calls meaningless between requests.) -/
def Obligations.StorageRead : Prop :=
  ∀ (s : State) (off len : U32) (xs : List ReadDraw), s.seq = none → (∀ x ∈ xs, x.good s.cfg) →
    off.toNat % 2048 = 0 → len.toNat = 2048 * xs.length → off.toNat + len.toNat ≤ s.cfg.capacity →
    ∃ u cur k, exec (.sread off len) s = .next u ∧
      requestRun (.sread off len) (xs.flatMap ReadDraw.draws) u =
        .next { s.endedWith 0x00#8 len (xs.flatMap ReadDraw.bytes) (.ok (.bytes (xs.flatMap ReadDraw.bytes)))
          (s.trace ++ recordsFrom (fun j => ReadDraw.records s.cfg (pageAt (fromByteAddress off) 1 j)) 0 xs) with
          cur := cur, k := k }

/-- R264: SWRITE of any number of chunks makes its own write-enable for each chunk, loads the chunk at column 0 and
programs page after page. -/
def Obligations.StorageWrite : Prop :=
  ∀ (s : State) (off : U32) (data : List Byte) (xs : List WriteDraw), s.seq = none →
    (∀ x ∈ xs, x.runs s.cfg ∧ (decodeSr3 s.cfg.layout x.last.value).pFail = 0#1) →
    off.toNat % 2048 = 0 → data.length = 2048 * xs.length → data.length < 2 ^ 32 →
    off.toNat + data.length ≤ s.cfg.capacity →
    ∃ u cur k, exec (.swrite off data) s = .next u ∧
      requestRun (.swrite off data) (xs.flatMap WriteDraw.chunkDraws) u =
        .next { s.endedWith 0x00#8 0#32 [] (.ok .unit)
          (s.trace ++ recordsFrom (fun j => WriteDraw.chunkRecords s.cfg (pageAt (fromByteAddress off) 1 j)
            ((data.drop (2048 * j)).take 2048)) 0 xs) with cur := cur, k := k }

/-- R265: SERASE erases the blocks from `from` up to and including `to` under `Inclusive`, and up to but not including
it under `Exclusive`, in order. -/
def Obligations.StorageErase : Prop :=
  ∀ (s : State) (fromOff toOff : U32) (xs : List WriteDraw), s.seq = none →
    (∀ x ∈ xs, x.runs s.cfg ∧ (decodeSr3 s.cfg.layout x.last.value).eFail = 0#1) →
    fromOff.toNat % 131072 = 0 → toOff.toNat % 131072 = 0 → fromOff.toNat ≤ toOff.toNat →
    toOff.toNat ≤ s.cfg.capacity →
    xs.length = (match s.cfg.eraseRange with
      | .inclusive => (toOff.toNat - fromOff.toNat) / 131072 + 1
      | .exclusive => (toOff.toNat - fromOff.toNat) / 131072) →
    ∃ u cur k, exec (.serase fromOff toOff) s = .next u ∧
      requestRun (.serase fromOff toOff) (xs.flatMap WriteDraw.blockDraws) u =
        .next { s.endedWith 0x00#8 0#32 [] (.ok .unit)
          (s.trace ++ recordsFrom (fun j => WriteDraw.blockRecords s.cfg (pageAt (fromByteAddress fromOff) 64 j))
            0 xs) with cur := cur, k := k }

/-- R268: in a multi-chunk SREAD, SWRITE or SERASE, the first chunk or block that fails ends the request with that
chunk's error, whichever error it is: `Transport` at any of its transactions, `PollTimeout`, and for SWRITE and SERASE
`WriteEnable`, and `ProgramFailure` or `EraseFailure` with the page of that chunk or block. The chunks before it are
in the transcript, no later one is begun, no count of them and no data is returned. -/
def Obligations.StorageStopsAtFailure : Prop :=
  ∀ s : State, s.seq = none →
    (∀ (off len : U32) (xs : List ReadDraw) (draws : List TxnResult) (records : List TxnRecord) (e : Err),
      (∀ x ∈ xs, x.good s.cfg) →
      off.toNat % 2048 = 0 → len.toNat % 2048 = 0 → 2048 * xs.length < len.toNat →
      off.toNat + len.toNat ≤ s.cfg.capacity →
      ReadChunkFails s.cfg (pageAt (fromByteAddress off) 1 xs.length) draws records e →
      ∃ u cur k, exec (.sread off len) s = .next u ∧
        requestRun (.sread off len) (xs.flatMap ReadDraw.draws ++ draws) u =
          .next { s.endedInError e (s.trace ++
            (recordsFrom (fun j => ReadDraw.records s.cfg (pageAt (fromByteAddress off) 1 j)) 0 xs ++ records)) with
            cur := cur, k := k }) ∧
    (∀ (off : U32) (data : List Byte) (xs : List WriteDraw) (draws : List TxnResult) (records : List TxnRecord)
        (e : Err),
      (∀ x ∈ xs, x.runs s.cfg ∧ (decodeSr3 s.cfg.layout x.last.value).pFail = 0#1) →
      off.toNat % 2048 = 0 → data.length % 2048 = 0 → 2048 * xs.length < data.length → data.length < 2 ^ 32 →
      off.toNat + data.length ≤ s.cfg.capacity →
      WriteBodyFails s.cfg
        (chunkFrames s.cfg (pageAt (fromByteAddress off) 1 xs.length) ((data.drop (2048 * xs.length)).take 2048))
        (fun v => (decodeSr3 s.cfg.layout v).pFail = 1#1)
        (.programFailure (pageAt (fromByteAddress off) 1 xs.length)) draws records e →
      ∃ u cur k, exec (.swrite off data) s = .next u ∧
        requestRun (.swrite off data) (xs.flatMap WriteDraw.chunkDraws ++ draws) u =
          .next { s.endedInError e (s.trace ++
            (recordsFrom (fun j => WriteDraw.chunkRecords s.cfg (pageAt (fromByteAddress off) 1 j)
              ((data.drop (2048 * j)).take 2048)) 0 xs ++ records)) with cur := cur, k := k }) ∧
    ∀ (fromOff toOff : U32) (xs : List WriteDraw) (draws : List TxnResult) (records : List TxnRecord) (e : Err),
      (∀ x ∈ xs, x.runs s.cfg ∧ (decodeSr3 s.cfg.layout x.last.value).eFail = 0#1) →
      fromOff.toNat % 131072 = 0 → toOff.toNat % 131072 = 0 → fromOff.toNat ≤ toOff.toNat →
      toOff.toNat ≤ s.cfg.capacity →
      xs.length < (match s.cfg.eraseRange with
        | .inclusive => (toOff.toNat - fromOff.toNat) / 131072 + 1
        | .exclusive => (toOff.toNat - fromOff.toNat) / 131072) →
      WriteBodyFails s.cfg (blockFrames s.cfg (pageAt (fromByteAddress fromOff) 64 xs.length))
        (fun v => (decodeSr3 s.cfg.layout v).eFail = 1#1)
        (.eraseFailure (pageAt (fromByteAddress fromOff) 64 xs.length)) draws records e →
      ∃ u cur k, exec (.serase fromOff toOff) s = .next u ∧
        requestRun (.serase fromOff toOff) (xs.flatMap WriteDraw.blockDraws ++ draws) u =
          .next { s.endedInError e (s.trace ++
            (recordsFrom (fun j => WriteDraw.blockRecords s.cfg (pageAt (fromByteAddress fromOff) 64 j)) 0 xs ++
              records)) with cur := cur, k := k }

/-- R291: SCANNX inside an active scan moves the cursor one block on and returns the page with the two bytes of column
0 and the byte of column 2048. -/
def Obligations.ScanNextItem : Prop :=
  ∀ (s : State) (busy : List RegRead) (last : RegRead) (a0 a1 b0 : Byte), s.seq = none → s.scanActive = true →
    s.scanNextPage.toNat ≤ s.scanEnd.toNat → pollEnds s.cfg busy last →
    ∃ u, exec .scannx s = .next u ∧
      requestRun .scannx (.ok [] :: (pollDraws busy last ++ [.ok [a0, a1], .ok [b0]])) u =
        .next { s.endedWith 0x00#8 s.scanNextPage [a0, a1, b0]
          (.ok (.item (.found s.scanNextPage [a0, a1, b0])))
          (s.trace ++ sentRecord (s.cfg.opc.pageDataRead :: serPage s.scanNextPage) ::
            (pollRecords s.cfg busy last ++
              [readRecord s.cfg 0#32 [a0, a1], readRecord s.cfg 2048#32 [b0]])) with
          scanNextPage := s.scanNextPage + 64#32 }

/-- R291, R315: a transport error at any transaction of SCANNX becomes an item, the reads after it are not issued, and
the cursor has moved on. -/
def Obligations.ScanNextError : Prop :=
  ∀ (s : State) (busy : List RegRead) (last : RegRead) (a0 a1 b0 : Byte) (t : TErr) (j : Nat), s.seq = none →
    s.scanActive = true → s.scanNextPage.toNat ≤ s.scanEnd.toNat → pollEnds s.cfg busy last →
    j < busy.length + 4 →
    ∃ u last', exec .scannx s = .next u ∧
      (sentRecord (s.cfg.opc.pageDataRead :: serPage s.scanNextPage) ::
        (pollRecords s.cfg busy last ++
          [readRecord s.cfg 0#32 [a0, a1], readRecord s.cfg 2048#32 [b0]]))[j]? = some last' ∧
      requestRun .scannx
        ((.ok [] :: (pollDraws busy last ++ [.ok [a0, a1], .ok [b0]])).take j ++ [.err t]) u =
        .next { s.endedWith 0x01#8 0#32 [] (.ok (.item (.failed (.transport t))))
          (s.trace ++ (sentRecord (s.cfg.opc.pageDataRead :: serPage s.scanNextPage) ::
            (pollRecords s.cfg busy last ++
              [readRecord s.cfg 0#32 [a0, a1], readRecord s.cfg 2048#32 [b0]])).take j ++
            [{ sent := last'.sent, got := .err t }]) with
          scanNextPage := s.scanNextPage + 64#32 }

/-! ## Errors -/

/-- R302, R310, R314: a transport error ends any request at the transaction that failed, before any check, with
nothing rolled back and no other state changed; only the Status1 write of UNPROT is exempt, and inside SCANNX's `try`
the error is an item. -/
def Obligations.TransportError : Prop :=
  ∀ (i : Instr) (s : State) (q : Seq) (op : Op) (rest : List Op) (t : TErr), isRequest i = true →
    s.seq = some q → q.ops = op :: rest → s.rx = some (.err t) → (∀ v, op ≠ .unprotWrite v) →
    (q.tryItem = false →
      exec i s = .next (s.endedWith 0x01#8 0#32 [] (.err (.transport t)) s.trace)) ∧
    (q.tryItem = true →
      exec i s = .next (s.endedWith 0x01#8 0#32 [] (.ok (.item (.failed (.transport t)))) s.trace))

/-- R260, R261, R311, R312, R314: a storage request outside the device or off its granularity ends before any
transaction, out-of-bounds before alignment, with the request's first operand. -/
def Obligations.Validation : Prop :=
  ∀ (s : State), s.seq = none →
    (∀ off len : U32,
      (s.cfg.capacity < len.toNat ∨ s.cfg.capacity - len.toNat < off.toNat →
        exec (.sread off len) s =
          .next (s.endedWith 0x08#8 off [] (.err (.outOfBounds off)) s.trace)) ∧
      (off.toNat + len.toNat ≤ s.cfg.capacity → off.toNat % 2048 ≠ 0 ∨ len.toNat % 2048 ≠ 0 →
        exec (.sread off len) s =
          .next (s.endedWith 0x07#8 off [] (.err (.notAligned off)) s.trace))) ∧
    (∀ (off : U32) (data : List Byte), data.length < 2 ^ 32 →
      (s.cfg.capacity < data.length ∨ s.cfg.capacity - data.length < off.toNat →
        exec (.swrite off data) s =
          .next (s.endedWith 0x08#8 off [] (.err (.outOfBounds off)) s.trace)) ∧
      (off.toNat + data.length ≤ s.cfg.capacity → off.toNat % 2048 ≠ 0 ∨ data.length % 2048 ≠ 0 →
        exec (.swrite off data) s =
          .next (s.endedWith 0x07#8 off [] (.err (.notAligned off)) s.trace))) ∧
    ∀ fromOff toOff : U32,
      (toOff.toNat < fromOff.toNat ∨ s.cfg.capacity < toOff.toNat →
        exec (.serase fromOff toOff) s =
          .next (s.endedWith 0x08#8 fromOff [] (.err (.outOfBounds fromOff)) s.trace)) ∧
      (fromOff.toNat ≤ toOff.toNat → toOff.toNat ≤ s.cfg.capacity →
        fromOff.toNat % 131072 ≠ 0 ∨ toOff.toNat % 131072 ≠ 0 →
        exec (.serase fromOff toOff) s =
          .next (s.endedWith 0x07#8 fromOff [] (.err (.notAligned fromOff)) s.trace))

/-- R313: under `POLL_LIMIT = N`, a poll whose `N` reads all saw `busy = 1` ends its request with `PollTimeout(N)`,
whichever request polls (inside SCANNX's `try` it becomes the item); under `Unbounded` no instruction ends with one. -/
def Obligations.PollTimeouts : Prop :=
  (∀ (s : State) (page : U32) (busy : List RegRead) (n : Nat), s.seq = none → 1 ≤ n →
    s.cfg.pollLimit = .limit n → busy.length = n → (∀ x ∈ busy, busySet s.cfg x.value) →
    ∃ u, exec (.pread page) s = .next u ∧
      requestRun (.pread page) (.ok [] :: busy.map RegRead.draw) u =
        .next (s.endedWith 0x09#8 (BitVec.ofNat 32 n) [] (.err (.pollTimeout n))
          (s.trace ++ sentRecord (s.cfg.opc.pageDataRead :: serPage page) ::
            busy.map (regRecord s.cfg 0xC0#8)))) ∧
  (∀ (i : Instr) (s : State) (q : Seq) (check : PollCheck) (rest : List Op) (busy : List RegRead) (n : Nat),
    isRequest i = true → s.seq = some q → q.ops = .poll 0 check :: rest →
    s.bus = some [s.cfg.opc.readReg, 0xC0#8, 0x00#8] → 1 ≤ n → s.cfg.pollLimit = .limit n → busy.length = n →
    (∀ x ∈ busy, busySet s.cfg x.value) →
    requestRun i (busy.map RegRead.draw) s =
      .next (s.endedWith 0x09#8 (BitVec.ofNat 32 n) []
        (if q.tryItem then .ok (.item (.failed (.pollTimeout n))) else .err (.pollTimeout n))
        (s.trace ++ busy.map (regRecord s.cfg 0xC0#8)))) ∧
  ∀ (i : Instr) (s t : State), s.cfg.pollLimit = .unbounded → exec i s = .next t →
    t.result = s.result ∨ ∀ n, t.result.outcome ≠ some (.err (.pollTimeout n)) ∧
      t.result.outcome ≠ some (.ok (.item (.failed (.pollTimeout n))))

/-- R316: under `Unbounded`, however many reads of a poll have seen `busy = 1`, the request has not ended, whichever
request polls: it is still busy, with the next Status3 read on the bus and no result written. -/
def Obligations.PollNeverEnds : Prop :=
  (∀ (s : State) (page : U32) (busy : List RegRead), s.seq = none → s.cfg.pollLimit = .unbounded →
    (∀ x ∈ busy, busySet s.cfg x.value) →
    ∃ u v, exec (.pread page) s = .next u ∧
      requestRun (.pread page) (.ok [] :: busy.map RegRead.draw) u = .next v ∧
      v.phase = .busy ∧ v.bus = some [s.cfg.opc.readReg, 0xC0#8, 0x00#8] ∧ v.result = s.result) ∧
  ∀ (i : Instr) (s : State) (q : Seq) (reads : Nat) (check : PollCheck) (rest : List Op) (busy : List RegRead),
    isRequest i = true → s.phase = .busy → s.seq = some q → q.ops = .poll reads check :: rest →
    s.bus = some [s.cfg.opc.readReg, 0xC0#8, 0x00#8] → s.cfg.pollLimit = .unbounded →
    (∀ x ∈ busy, busySet s.cfg x.value) →
    ∃ v, requestRun i (busy.map RegRead.draw) s = .next v ∧
      v.phase = .busy ∧ v.bus = some [s.cfg.opc.readReg, 0xC0#8, 0x00#8] ∧ v.result = s.result

/-- R267. -/
def Obligations.StorageView : Prop :=
  (∀ off, storageKind (.notAligned off) = .notAligned ∧ storageKind (.outOfBounds off) = .outOfBounds) ∧
  ∀ e, (∀ off, e ≠ .notAligned off) → (∀ off, e ≠ .outOfBounds off) → storageKind e = .other

/-- R301, R127: the code and the information word of each error, as a request's end writes them; `DATA_OUT` is
empty. -/
def Obligations.ErrorCodes : Prop :=
  ∀ (s : State) (t : TErr) (v : Byte) (p : U32) (r : BitVec 4) (n : Nat),
    s.raise false (.transport t) = s.endedWith 0x01#8 0#32 [] (.err (.transport t)) s.trace ∧
    s.raise false (.writeEnable v) = s.endedWith 0x02#8 (v.setWidth 32) [] (.err (.writeEnable v)) s.trace ∧
    s.raise false (.writeDisable v) = s.endedWith 0x03#8 (v.setWidth 32) [] (.err (.writeDisable v)) s.trace ∧
    s.raise false (.eraseFailure p) = s.endedWith 0x04#8 p [] (.err (.eraseFailure p)) s.trace ∧
    s.raise false (.programFailure p) = s.endedWith 0x05#8 p [] (.err (.programFailure p)) s.trace ∧
    s.raise false (.blockProtect r) = s.endedWith 0x06#8 (r.setWidth 32) [] (.err (.blockProtect r)) s.trace ∧
    s.raise false (.notAligned p) = s.endedWith 0x07#8 p [] (.err (.notAligned p)) s.trace ∧
    s.raise false (.outOfBounds p) = s.endedWith 0x08#8 p [] (.err (.outOfBounds p)) s.trace ∧
    s.raise false (.pollTimeout n) =
      s.endedWith 0x09#8 (BitVec.ofNat 32 n) [] (.err (.pollTimeout n)) s.trace ∧
    s.raise false (.badRequest p) = s.endedWith 0x0A#8 p [] (.err (.badRequest p)) s.trace

/-! ## The machine -/

/-- A step runs the decoded instruction: the frame on the bus is the device's (R36, R37), the descriptor latch the
encoder's (R31, R40). Which agent moves is the model's choice (log 10). -/
def Obligations.StepRunsDecoded : Prop :=
  ∀ (s : State) (i : Instr), s.cfg.valid = true →
    (∀ sent, s.bus = some sent → decodeWire s.cfg sent = .ok i → step s = exec i s) ∧
    (s.bus = none → s.resetReq = false → s.phase = .busy → decodeRequest s.desc = .ok i → step s = exec i s)

/-- R40, R126: in `Idle` the host submits its next request, the whole latch at once; a later request of an expansion is
passed over after an `Err`; with nothing to submit the encoder waits, its state unchanged (log 12, log 13). -/
def Obligations.HostTurn : Prop :=
  ∀ s : State, s.cfg.valid = true → s.bus = none → s.resetReq = false → s.phase = .idle →
    (s.script = [] → step s = .next s) ∧
    ∀ item rest, s.script = item :: rest →
      ((item.chained = false ∨ lastFailed s = false) →
        step s = .next { s with script := rest, desc := item.desc, phase := .busy, seq := none, bus := none,
                                rx := none, trace := [] }) ∧
      (item.chained = true → lastFailed s = true → step s = step { s with script := rest })

/-- R60: the encoder's state at reset; until the host submits a request it issues no transaction. -/
def Obligations.ResetState : Prop :=
  State.reset.phase = .idle ∧ State.reset.result.kind = 0xFF#8 ∧ State.reset.result.info = 0#32 ∧
  State.reset.result.dataOut = [] ∧ State.reset.result.outcome = none ∧ State.reset.seq = none ∧
  State.reset.scanActive = false ∧ State.reset.scanNextPage = 0#32 ∧ State.reset.scanEnd = 0#32 ∧
  State.reset.bus = none ∧ State.reset.trace = [] ∧ step State.reset = .next State.reset

/-- R330, R331, R126: an encoder reset, in `Idle` or in `Busy`, gives the encoder its reset state; no result is written
for a request in flight, and the device and the configuration stay. The host's requests stay too, but for the later
requests of an expansion whose last request ended in `Err`, or was abandoned (log 29). That a reset waits for a window
in progress, the values of the unspecified registers, that the device's transaction count goes on, and that the host
goes on with an expansion after an `Ok` are the model's choices (log 4, log 5, log 14, log 29, log 30). -/
def Obligations.EncoderReset : Prop :=
  ∀ s : State, s.cfg.valid = true → s.bus = none → s.resetReq = true →
    ∃ script, step s = .next { State.reset with cfg := s.cfg, dev := s.dev, script := script } ∧
      (s.phase = .busy ∨ lastFailed s = true → script = s.script.dropWhile (·.chained)) ∧
      (s.phase = .idle → lastFailed s = false → script = s.script)

/-- R42: no instruction and no step changes the configuration. -/
def Obligations.ConfigurationFixed : Prop :=
  (∀ (i : Instr) (s t : State), exec i s = .next t → t.cfg = s.cfg) ∧
  ∀ s t : State, step s = .next t → t.cfg = s.cfg

/-- R31, R35, R38, R41: the frame of every request's turn. It never touches the device, the descriptor latch, the
transcript or the host's side; only the scanner requests touch the scanner's state, only the three looping storage
requests the cursor and the chunk index; the result latch is written only when the request ends. -/
def Obligations.RequestFrame : Prop :=
  ∀ (i : Instr) (s t : State), isRequest i = true → exec i s = .next t →
    t.cfg = s.cfg ∧ t.dev = s.dev ∧ t.desc = s.desc ∧ t.trace = s.trace ∧ t.script = s.script ∧
    t.resetReq = s.resetReq ∧
    (i ≠ .scanst → i ≠ .scannx →
      t.scanActive = s.scanActive ∧ t.scanNextPage = s.scanNextPage ∧ t.scanEnd = s.scanEnd) ∧
    ((t.phase = .idle ∧ t.seq = none ∧ t.bus = none) ∨
      (t.phase = .busy ∧ t.seq.isSome ∧ t.bus.isSome ∧ t.result = s.result)) ∧
    t.rx = none ∧
    ((∀ q, s.seq = some q → ∃ r, q.tail = .ret r) → (∀ a b, i ≠ .sread a b) → (∀ a b, i ≠ .swrite a b) → (∀ a b, i ≠ .serase a b) →
      t.cur = s.cur ∧ t.k = s.k)

/-- R12: what the encoder does depends on the device only through what its transactions return: under any device
state a request's turn is the same. -/
def Obligations.DeviceIrrelevant : Prop :=
  ∀ (i : Instr) (s : State) (d : Device), isRequest i = true →
    exec i { s with dev := d } =
      (match exec i s with
        | .next t => .next { t with dev := d }
        | .fault f => .fault f
        | .refused r => .refused r)

/-- Every step keeps the device's memories in canonical form and inside the array and the buffer (R71, R72, R91). -/
def Obligations.MemoryInvariant : Prop :=
  ∀ s t : State, deviceMemoryOk s → step s = .next t → deviceMemoryOk t

/-- Every step keeps the scanner's cursor and bound (R38, R290, R291) and the codes of the result latch (R301,
R310). -/
def Obligations.LatchAndScannerInvariant : Prop :=
  ∀ s t : State, scannerOk s ∧ latchOk s → step s = .next t → scannerOk t ∧ latchOk t

/-- Every step keeps the agreement of sequencer, bus and phase (R33, R34, R36): what stands on the bus is always the
frame of the transaction in flight, a Command Table opcode first (R157). -/
def Obligations.SequencerInvariant : Prop :=
  ∀ s t : State, sequencerOk s → step s = .next t → sequencerOk t

/-- The machine after reset meets all the invariants. -/
def Obligations.InvariantsAtReset : Prop :=
  deviceMemoryOk State.reset ∧ scannerOk State.reset ∧ latchOk State.reset ∧ sequencerOk State.reset

/-- R310, R315: the encoder has no trap. Where the sequencer's invariant holds no step faults, and under the oracle
with an admitted configuration every step gives a next state. The faults that cannot happen are the model's own, for
states that no run reaches (DESIGN CHOICE, log 19). -/
def Obligations.NeverStops : Prop :=
  ∀ s : State, sequencerOk s →
    (∀ f, step s ≠ .fault f) ∧
    (s.cfg.valid = true → s.cfg.device = .oracle → ∃ t, step s = .next t)

/-- R125, R126: the assembler sets `B` from the data's length, and the pseudo-instructions expand to the requests the
rule lists, the later ones chained to the first. -/
def Obligations.Assembler : Prop :=
  ∀ (c : Config) (page col len : U32) (data : DataArg),
    assemble c .stat1 = [⟨⟨0x05#8, 0xA0#8, 0x00#8, 0x00#8, 0#32, 0#32, []⟩, false⟩] ∧
    assemble c .stat2 = [⟨⟨0x05#8, 0xB0#8, 0x00#8, 0x00#8, 0#32, 0#32, []⟩, false⟩] ∧
    assemble c .stat3 = [⟨⟨0x05#8, 0xC0#8, 0x00#8, 0x00#8, 0#32, 0#32, []⟩, false⟩] ∧
    assemble c (.program page col data) =
      [⟨⟨0x08#8, 0x00#8, 0x00#8, 0x00#8, col, BitVec.ofNat 32 (dataBytes data).length, dataBytes data⟩, false⟩,
       ⟨⟨0x0A#8, 0x00#8, 0x00#8, 0x00#8, page, 0#32, []⟩, true⟩] ∧
    assemble c (.readpage page col len) =
      [⟨⟨0x0B#8, 0x00#8, 0x00#8, 0x00#8, page, 0#32, []⟩, false⟩,
       ⟨⟨0x0C#8, 0x00#8, 0x00#8, 0x00#8, col, len, []⟩, true⟩]
end

