-- ==== Sys2Proof/Laws/State.lean ====
section
/-! SUPPORT. One lemma per field per update of State: what each of the shared updates leaves in each field. -/

namespace Sys2Proof.Machine

/-! ## `closeWindow` -/

@[simp] theorem State.closeWindow_cfg (s : State) (sent : List Byte) (got : TxnResult) (d : Device) :
    (s.closeWindow sent got d).cfg = s.cfg := rfl

@[simp] theorem State.closeWindow_desc (s : State) (sent : List Byte) (got : TxnResult) (d : Device) :
    (s.closeWindow sent got d).desc = s.desc := rfl

@[simp] theorem State.closeWindow_result (s : State) (sent : List Byte) (got : TxnResult) (d : Device) :
    (s.closeWindow sent got d).result = s.result := rfl

@[simp] theorem State.closeWindow_phase (s : State) (sent : List Byte) (got : TxnResult) (d : Device) :
    (s.closeWindow sent got d).phase = s.phase := rfl

@[simp] theorem State.closeWindow_seq (s : State) (sent : List Byte) (got : TxnResult) (d : Device) :
    (s.closeWindow sent got d).seq = s.seq := rfl

@[simp] theorem State.closeWindow_cur (s : State) (sent : List Byte) (got : TxnResult) (d : Device) :
    (s.closeWindow sent got d).cur = s.cur := rfl

@[simp] theorem State.closeWindow_k (s : State) (sent : List Byte) (got : TxnResult) (d : Device) :
    (s.closeWindow sent got d).k = s.k := rfl

@[simp] theorem State.closeWindow_scanActive (s : State) (sent : List Byte) (got : TxnResult) (d : Device) :
    (s.closeWindow sent got d).scanActive = s.scanActive := rfl

@[simp] theorem State.closeWindow_scanNextPage (s : State) (sent : List Byte) (got : TxnResult) (d : Device) :
    (s.closeWindow sent got d).scanNextPage = s.scanNextPage := rfl

@[simp] theorem State.closeWindow_scanEnd (s : State) (sent : List Byte) (got : TxnResult) (d : Device) :
    (s.closeWindow sent got d).scanEnd = s.scanEnd := rfl

@[simp] theorem State.closeWindow_bus (s : State) (sent : List Byte) (got : TxnResult) (d : Device) :
    (s.closeWindow sent got d).bus = none := rfl

@[simp] theorem State.closeWindow_rx (s : State) (sent : List Byte) (got : TxnResult) (d : Device) :
    (s.closeWindow sent got d).rx = some got := rfl

@[simp] theorem State.closeWindow_trace (s : State) (sent : List Byte) (got : TxnResult) (d : Device) :
    (s.closeWindow sent got d).trace = s.trace ++ [{ sent := sent, got := got }] := rfl

@[simp] theorem State.closeWindow_dev (s : State) (sent : List Byte) (got : TxnResult) (d : Device) :
    (s.closeWindow sent got d).dev = d := rfl

@[simp] theorem State.closeWindow_script (s : State) (sent : List Byte) (got : TxnResult) (d : Device) :
    (s.closeWindow sent got d).script = s.script := rfl

@[simp] theorem State.closeWindow_resetReq (s : State) (sent : List Byte) (got : TxnResult) (d : Device) :
    (s.closeWindow sent got d).resetReq = s.resetReq := rfl

/-! ## `finish` -/

@[simp] theorem State.finish_cfg (s : State) (r : Result) :
    (s.finish r).cfg = s.cfg := rfl

@[simp] theorem State.finish_desc (s : State) (r : Result) :
    (s.finish r).desc = s.desc := rfl

@[simp] theorem State.finish_result (s : State) (r : Result) :
    (s.finish r).result = latchOf r := rfl

@[simp] theorem State.finish_phase (s : State) (r : Result) :
    (s.finish r).phase = Phase.idle := rfl

@[simp] theorem State.finish_seq (s : State) (r : Result) :
    (s.finish r).seq = none := rfl

@[simp] theorem State.finish_cur (s : State) (r : Result) :
    (s.finish r).cur = s.cur := rfl

@[simp] theorem State.finish_k (s : State) (r : Result) :
    (s.finish r).k = s.k := rfl

@[simp] theorem State.finish_scanActive (s : State) (r : Result) :
    (s.finish r).scanActive = s.scanActive := rfl

@[simp] theorem State.finish_scanNextPage (s : State) (r : Result) :
    (s.finish r).scanNextPage = s.scanNextPage := rfl

@[simp] theorem State.finish_scanEnd (s : State) (r : Result) :
    (s.finish r).scanEnd = s.scanEnd := rfl

@[simp] theorem State.finish_bus (s : State) (r : Result) :
    (s.finish r).bus = none := rfl

@[simp] theorem State.finish_rx (s : State) (r : Result) :
    (s.finish r).rx = none := rfl

@[simp] theorem State.finish_trace (s : State) (r : Result) :
    (s.finish r).trace = s.trace := rfl

@[simp] theorem State.finish_dev (s : State) (r : Result) :
    (s.finish r).dev = s.dev := rfl

@[simp] theorem State.finish_script (s : State) (r : Result) :
    (s.finish r).script = s.script := rfl

@[simp] theorem State.finish_resetReq (s : State) (r : Result) :
    (s.finish r).resetReq = s.resetReq := rfl

/-! ## `submit` -/

@[simp] theorem State.submit_cfg (s : State) (d : Descriptor) :
    (s.submit d).cfg = s.cfg := rfl

@[simp] theorem State.submit_desc (s : State) (d : Descriptor) :
    (s.submit d).desc = d := rfl

@[simp] theorem State.submit_result (s : State) (d : Descriptor) :
    (s.submit d).result = s.result := rfl

@[simp] theorem State.submit_phase (s : State) (d : Descriptor) :
    (s.submit d).phase = Phase.busy := rfl

@[simp] theorem State.submit_seq (s : State) (d : Descriptor) :
    (s.submit d).seq = none := rfl

@[simp] theorem State.submit_cur (s : State) (d : Descriptor) :
    (s.submit d).cur = s.cur := rfl

@[simp] theorem State.submit_k (s : State) (d : Descriptor) :
    (s.submit d).k = s.k := rfl

@[simp] theorem State.submit_scanActive (s : State) (d : Descriptor) :
    (s.submit d).scanActive = s.scanActive := rfl

@[simp] theorem State.submit_scanNextPage (s : State) (d : Descriptor) :
    (s.submit d).scanNextPage = s.scanNextPage := rfl

@[simp] theorem State.submit_scanEnd (s : State) (d : Descriptor) :
    (s.submit d).scanEnd = s.scanEnd := rfl

@[simp] theorem State.submit_bus (s : State) (d : Descriptor) :
    (s.submit d).bus = none := rfl

@[simp] theorem State.submit_rx (s : State) (d : Descriptor) :
    (s.submit d).rx = none := rfl

@[simp] theorem State.submit_trace (s : State) (d : Descriptor) :
    (s.submit d).trace = [] := rfl

@[simp] theorem State.submit_dev (s : State) (d : Descriptor) :
    (s.submit d).dev = s.dev := rfl

@[simp] theorem State.submit_script (s : State) (d : Descriptor) :
    (s.submit d).script = s.script := rfl

@[simp] theorem State.submit_resetReq (s : State) (d : Descriptor) :
    (s.submit d).resetReq = s.resetReq := rfl

/-! ## `issue` -/

@[simp] theorem State.issue_cfg (s : State) (q : Seq) (op : Op) (rest : List Op) :
    (s.issue q op rest).cfg = s.cfg := rfl

@[simp] theorem State.issue_desc (s : State) (q : Seq) (op : Op) (rest : List Op) :
    (s.issue q op rest).desc = s.desc := rfl

@[simp] theorem State.issue_result (s : State) (q : Seq) (op : Op) (rest : List Op) :
    (s.issue q op rest).result = s.result := rfl

@[simp] theorem State.issue_phase (s : State) (q : Seq) (op : Op) (rest : List Op) :
    (s.issue q op rest).phase = Phase.busy := rfl

@[simp] theorem State.issue_seq (s : State) (q : Seq) (op : Op) (rest : List Op) :
    (s.issue q op rest).seq = some { q with ops := op :: rest } := rfl

@[simp] theorem State.issue_cur (s : State) (q : Seq) (op : Op) (rest : List Op) :
    (s.issue q op rest).cur = s.cur := rfl

@[simp] theorem State.issue_k (s : State) (q : Seq) (op : Op) (rest : List Op) :
    (s.issue q op rest).k = s.k := rfl

@[simp] theorem State.issue_scanActive (s : State) (q : Seq) (op : Op) (rest : List Op) :
    (s.issue q op rest).scanActive = s.scanActive := rfl

@[simp] theorem State.issue_scanNextPage (s : State) (q : Seq) (op : Op) (rest : List Op) :
    (s.issue q op rest).scanNextPage = s.scanNextPage := rfl

@[simp] theorem State.issue_scanEnd (s : State) (q : Seq) (op : Op) (rest : List Op) :
    (s.issue q op rest).scanEnd = s.scanEnd := rfl

@[simp] theorem State.issue_bus (s : State) (q : Seq) (op : Op) (rest : List Op) :
    (s.issue q op rest).bus = some (opStream s.cfg op) := rfl

@[simp] theorem State.issue_rx (s : State) (q : Seq) (op : Op) (rest : List Op) :
    (s.issue q op rest).rx = none := rfl

@[simp] theorem State.issue_trace (s : State) (q : Seq) (op : Op) (rest : List Op) :
    (s.issue q op rest).trace = s.trace := rfl

@[simp] theorem State.issue_dev (s : State) (q : Seq) (op : Op) (rest : List Op) :
    (s.issue q op rest).dev = s.dev := rfl

@[simp] theorem State.issue_script (s : State) (q : Seq) (op : Op) (rest : List Op) :
    (s.issue q op rest).script = s.script := rfl

@[simp] theorem State.issue_resetReq (s : State) (q : Seq) (op : Op) (rest : List Op) :
    (s.issue q op rest).resetReq = s.resetReq := rfl

/-! ## `raise`: it is `finish` with the error's result -/

theorem State.raise_eq (s : State) (e : Err) : s.raise false e = s.finish (.err e) := rfl

theorem State.raise_try_eq (s : State) (e : Err) : s.raise true e = s.finish (.ok (.item (.failed e))) := rfl

@[simp] theorem State.raise_cfg (s : State) (b : Bool) (e : Err) : (s.raise b e).cfg = s.cfg := rfl

@[simp] theorem State.raise_desc (s : State) (b : Bool) (e : Err) : (s.raise b e).desc = s.desc := rfl

@[simp] theorem State.raise_phase (s : State) (b : Bool) (e : Err) : (s.raise b e).phase = Phase.idle := rfl

@[simp] theorem State.raise_seq (s : State) (b : Bool) (e : Err) : (s.raise b e).seq = none := rfl

@[simp] theorem State.raise_cur (s : State) (b : Bool) (e : Err) : (s.raise b e).cur = s.cur := rfl

@[simp] theorem State.raise_k (s : State) (b : Bool) (e : Err) : (s.raise b e).k = s.k := rfl

@[simp] theorem State.raise_scanActive (s : State) (b : Bool) (e : Err) : (s.raise b e).scanActive = s.scanActive := rfl

@[simp] theorem State.raise_scanNextPage (s : State) (b : Bool) (e : Err) : (s.raise b e).scanNextPage = s.scanNextPage := rfl

@[simp] theorem State.raise_scanEnd (s : State) (b : Bool) (e : Err) : (s.raise b e).scanEnd = s.scanEnd := rfl

@[simp] theorem State.raise_bus (s : State) (b : Bool) (e : Err) : (s.raise b e).bus = none := rfl

@[simp] theorem State.raise_rx (s : State) (b : Bool) (e : Err) : (s.raise b e).rx = none := rfl

@[simp] theorem State.raise_trace (s : State) (b : Bool) (e : Err) : (s.raise b e).trace = s.trace := rfl

@[simp] theorem State.raise_dev (s : State) (b : Bool) (e : Err) : (s.raise b e).dev = s.dev := rfl

@[simp] theorem State.raise_script (s : State) (b : Bool) (e : Err) : (s.raise b e).script = s.script := rfl

@[simp] theorem State.raise_resetReq (s : State) (b : Bool) (e : Err) : (s.raise b e).resetReq = s.resetReq := rfl

/-! ## `encoderReset` -/

@[simp] theorem State.encoderReset_cfg (s : State) : s.encoderReset.cfg = s.cfg := rfl

@[simp] theorem State.encoderReset_desc (s : State) : s.encoderReset.desc = State.reset.desc := rfl

@[simp] theorem State.encoderReset_result (s : State) : s.encoderReset.result = State.reset.result := rfl

@[simp] theorem State.encoderReset_phase (s : State) : s.encoderReset.phase = State.reset.phase := rfl

@[simp] theorem State.encoderReset_seq (s : State) : s.encoderReset.seq = State.reset.seq := rfl

@[simp] theorem State.encoderReset_cur (s : State) : s.encoderReset.cur = State.reset.cur := rfl

@[simp] theorem State.encoderReset_k (s : State) : s.encoderReset.k = State.reset.k := rfl

@[simp] theorem State.encoderReset_scanActive (s : State) : s.encoderReset.scanActive = State.reset.scanActive := rfl

@[simp] theorem State.encoderReset_scanNextPage (s : State) : s.encoderReset.scanNextPage = State.reset.scanNextPage := rfl

@[simp] theorem State.encoderReset_scanEnd (s : State) : s.encoderReset.scanEnd = State.reset.scanEnd := rfl

@[simp] theorem State.encoderReset_bus (s : State) : s.encoderReset.bus = State.reset.bus := rfl

@[simp] theorem State.encoderReset_rx (s : State) : s.encoderReset.rx = State.reset.rx := rfl

@[simp] theorem State.encoderReset_trace (s : State) : s.encoderReset.trace = State.reset.trace := rfl

@[simp] theorem State.encoderReset_dev (s : State) : s.encoderReset.dev = s.dev := rfl

@[simp] theorem State.encoderReset_script (s : State) : s.encoderReset.script = scriptAfterReset s := rfl

@[simp] theorem State.encoderReset_resetReq (s : State) : s.encoderReset.resetReq = State.reset.resetReq := rfl

/-! ## The latch -/

/-- Taking an error writes its code and its word, and no data (R127, R310). -/
theorem latchOf_err (e : Err) :
    latchOf (.err e) = { kind := errKind e, info := errInfo e, dataOut := [], outcome := some (.err e) } := rfl

/-- An error inside the `try` of SCAN_NEXT is latched like the error itself (R127). -/
theorem latchOf_failed (e : Err) :
    latchOf (.ok (.item (.failed e))) =
      { kind := errKind e, info := errInfo e, dataOut := [], outcome := some (.ok (.item (.failed e))) } := rfl

end Sys2Proof.Machine
end

