-- ==== Sys2Proof/Laws/Ops.lean ====
section
/-! SUPPORT. What each shared operation can do, said once: if it answers a next state, then which one and when. -/

namespace Sys2Proof.Machine

open Host

/-! ## Transactions -/

/-- A transaction that answers: the device replied, and the window closed with the kept bytes. -/
theorem transact_next {segs : List Seg} {s t : State} (h : transact segs s = .next t) :
    ∃ m d, respond s.cfg s.dev (streamOf s.cfg.rxFill segs) = .answered m d ∧
      t = s.closeWindow (streamOf s.cfg.rxFill segs) (keepResult segs m) d := by
  unfold transact at h
  split at h
  · cases h
  · next m d hr => exact ⟨m, d, hr, by cases h; rfl⟩

theorem transact_of_answered {segs : List Seg} {s : State} {m : TxnResult} {d : Device}
    (h : respond s.cfg s.dev (streamOf s.cfg.rxFill segs) = .answered m d) :
    transact segs s = .next (s.closeWindow (streamOf s.cfg.rxFill segs) (keepResult segs m) d) := by
  simp only [transact, h]

/-- A transaction never faults. -/
theorem transact_ne_fault (segs : List Seg) (s : State) (f : Fault) : transact segs s ≠ .fault f := by
  unfold transact
  split <;> simp

/-- What the reference device does with a window (R92, R93): it fails a listed transaction, or it handles one that it
may take. -/
theorem refRespond_answered {c : Config} {d d' : Device} {sent : List Byte} {m : TxnResult}
    (h : refRespond c d sent = .answered m d') :
    (c.ref.txnFail.contains d.txnCount = true ∧ m = .err refTransportError ∧
      d' = { d with txnCount := d.txnCount + 1 }) ∨
    (c.ref.txnFail.contains d.txnCount = false ∧ d.poweredDown = false ∧
      (d.busyLeft = 0 ∨ isStatus3Read c sent = true) ∧ m = .ok (refHandle c d sent).1 ∧
      d' = { (refHandle c d sent).2 with txnCount := d.txnCount + 1 }) := by
  unfold refRespond at h
  split at h
  · next hf => cases h; exact .inl ⟨hf, rfl, rfl⟩
  · next hf =>
    split at h
    · cases h
    · next hp =>
      split at h
      · cases h
      · next hb =>
        cases h
        refine .inr ⟨by simpa using hf, by simpa using hp, ?_, rfl, rfl⟩
        by_cases h0 : d.busyLeft = 0
        · exact .inl h0
        · exact .inr (by simpa [Nat.pos_of_ne_zero h0] using hb)

/-- The reference device takes a window it may take (R92). -/
theorem refRespond_of_takes {c : Config} {d : Device} {sent : List Byte}
    (hf : c.ref.txnFail.contains d.txnCount = false) (hp : d.poweredDown = false)
    (hb : d.busyLeft = 0 ∨ isStatus3Read c sent = true) :
    refRespond c d sent =
      .answered (.ok (refHandle c d sent).1) { (refHandle c d sent).2 with txnCount := d.txnCount + 1 } := by
  have h : ¬(0 < d.busyLeft ∧ isStatus3Read c sent = false) := by
    rintro ⟨h1, h2⟩
    rcases hb with hb | hb
    · omega
    · rw [hb] at h2; cases h2
  simp only [refRespond, hf, hp, if_neg h, Bool.false_eq_true, if_false]

/-! ## The sequencer -/

theorem State.take_next {s t : State} {q : Seq} {ops : List Op} (h : s.take q ops = .next t) :
    ∃ op rest, ops = op :: rest ∧ t = s.issue q op rest := by
  cases ops with
  | nil => cases h
  | cons op rest => exact ⟨op, rest, rfl, by cases h; rfl⟩

@[simp] theorem State.take_cons (s : State) (q : Seq) (op : Op) (rest : List Op) :
    s.take q (op :: rest) = .next (s.issue q op rest) := rfl

theorem State.deliver_next {s t : State} {acc : List Byte} {r : Ret} (h : s.deliver acc r = .next t) :
    ∃ p, retPayload s.cfg acc r = some p ∧ t = s.finish (.ok p) := by
  unfold State.deliver at h
  split at h
  · next p hp => exact ⟨p, hp, by cases h; rfl⟩
  · cases h

@[simp] theorem State.deliver_unit (s : State) (acc : List Byte) :
    s.deliver acc .unit = .next (s.finish (.ok .unit)) := rfl

@[simp] theorem State.deliver_bytes (s : State) (acc : List Byte) :
    s.deliver acc .bytes = .next (s.finish (.ok (.bytes acc))) := rfl

/-- The head of STORAGE_READ's loop (R263): the next chunk's page read is driven, or the request returns. -/
theorem State.readHead_eq (s : State) (q : Seq) (n : Nat) :
    s.readHead q n =
      if s.k.toNat < n then
        .next ({ s with cur := s.cur + 1#32 }.issue q (.send (.pageDataReadWire (wirePage s.cur)))
          [.poll 0 .nothing, .readData 0#32 2048#32])
      else .next (s.finish (.ok (.bytes q.acc))) := rfl

/-- The head of STORAGE_WRITE's loop (R264): the next chunk's write-enable is driven, or the request returns. -/
theorem State.writeHead_eq (s : State) (q : Seq) (data : List Byte) (n : Nat) :
    s.writeHead q data n =
      if s.k.toNat < n then
        .next ({ s with cur := s.cur + 1#32 }.issue q (.send .writeEnableWire)
          [.checkWel, .send (.loadProgramDataWire (wireCol s.cfg 0#32) (dataChunk data s.k.toNat)),
            .send (.programExecuteWire (wirePage s.cur)), .poll 0 (.programFlag s.cur)])
      else .next (s.finish (.ok .unit)) := rfl

/-- The head of STORAGE_ERASE's `Inclusive` loop (R265): the generator's next block, or the request returns. -/
theorem State.eraseHead_next {s t : State} {q : Seq} {g : BlockGen} (h : s.eraseHead q g = .next t) :
    (∃ p g', blocksNext g = (some p, g') ∧
      t = { s with cur := g'.cur }.issue { q with tail := .eraseBlocks g' } (.send .writeEnableWire)
        [.checkWel, .send (.blockEraseWire (wirePage p)), .poll 0 (.eraseFlag p)]) ∨
    ((blocksNext g).1 = none ∧ t = s.finish (.ok .unit)) := by
  unfold State.eraseHead at h
  split at h
  · next p g' hg => exact .inl ⟨p, g', hg, by cases h; rfl⟩
  · next g' hg => exact .inr ⟨by rw [hg], by cases h; rfl⟩

/-- The head of STORAGE_ERASE's `Exclusive` loop (R265). -/
theorem State.eraseUpToHead_eq (s : State) (q : Seq) (p tp : U32) :
    s.eraseUpToHead q p tp =
      if p.toNat < tp.toNat then
        .next ({ s with cur := p + 64#32 }.issue { q with tail := .eraseUpTo (p + 64#32) tp }
          (.send .writeEnableWire)
          [.checkWel, .send (.blockEraseWire (wirePage p)), .poll 0 (.eraseFlag p)])
      else .next (s.finish (.ok .unit)) := rfl

/-- What follows a checked transaction: the next one of the iteration, or its end. -/
theorem State.advance_cons (s : State) (data : List Byte) (q : Seq) (op : Op) (rest : List Op) :
    s.advance data q (op :: rest) = .next (s.issue q op rest) := rfl

theorem State.advance_nil (s : State) (data : List Byte) (q : Seq) : s.advance data q [] = s.iterate data q := rfl

/-- What consuming an answer can do (R34): with the head transaction's verdict, go on, repeat, or end in an error. -/
theorem State.resume_next {s t : State} {data : List Byte} {q : Seq} {r : TxnResult}
    (h : s.resume data q r = .next t) :
    ∃ op rest, q.ops = op :: rest ∧
      ((∃ g, judge s.cfg op r = .proceed g ∧ s.advance data { q with acc := q.acc ++ g } rest = .next t) ∨
       (∃ op', judge s.cfg op r = .replace op' ∧ t = s.issue q op' rest) ∨
       (∃ e, judge s.cfg op r = .raise e ∧ t = s.raise q.tryItem e)) := by
  unfold State.resume at h
  split at h
  · cases h
  · next op rest hq =>
    refine ⟨op, rest, hq, ?_⟩
    split at h
    · next g hj => exact .inl ⟨g, hj, h⟩
    · next op' hj => exact .inr (.inl ⟨op', hj, by cases h; rfl⟩)
    · next e hj => exact .inr (.inr ⟨e, hj, by cases h; rfl⟩)
    · cases h

/-- A request's turn: its start, or the consumption of the answer that came back. -/
theorem runRequest_next {data : List Byte} {start : State → Step} {s t : State}
    (h : runRequest data start s = .next t) :
    (s.seq = none ∧ start s = .next t) ∨
    (∃ q r, s.seq = some q ∧ s.rx = some r ∧ s.resume data q r = .next t) := by
  unfold runRequest at h
  split at h
  · next hs => exact .inl ⟨hs, h⟩
  · next q hs =>
    split at h
    · cases h
    · next r hr => exact .inr ⟨q, r, hs, hr, h⟩

theorem runRequest_start {data : List Byte} {start : State → Step} {s : State} (h : s.seq = none) :
    runRequest data start s = start s := by
  simp only [runRequest, h]

theorem runRequest_resume {data : List Byte} {start : State → Step} {s : State} {q : Seq} {r : TxnResult}
    (hq : s.seq = some q) (hr : s.rx = some r) : runRequest data start s = s.resume data q r := by
  simp only [runRequest, hq, hr]

/-! ## One step -/

/-- What a step can do: the configuration is admitted, and one agent moves. -/
theorem step_next {s t : State} (h : step s = .next t) : s.cfg.valid = true ∧ agentTurn s = .next t := by
  unfold step at h
  split at h
  · next hv => exact ⟨hv, h⟩
  · cases h

theorem step_of_valid {s : State} (h : s.cfg.valid = true) : step s = agentTurn s := by
  simp only [step, h, if_true]

/-- Which agent moves. -/
theorem agentTurn_cases (s : State) :
    (∃ sent, s.bus = some sent ∧ agentTurn s = deviceTurn sent s) ∨
    (s.bus = none ∧ s.resetReq = true ∧ agentTurn s = .next s.encoderReset) ∨
    (s.bus = none ∧ s.resetReq = false ∧ s.phase = .busy ∧ agentTurn s = encoderTurn s) ∨
    (s.bus = none ∧ s.resetReq = false ∧ s.phase = .idle ∧ agentTurn s = hostTurn s) := by
  unfold agentTurn
  cases hb : s.bus with
  | some sent => exact .inl ⟨sent, rfl, rfl⟩
  | none =>
    cases hr : s.resetReq with
    | true => exact .inr (.inl ⟨rfl, rfl, rfl⟩)
    | false =>
      cases hp : s.phase with
      | busy => exact .inr (.inr (.inl ⟨rfl, rfl, rfl, rfl⟩))
      | idle => exact .inr (.inr (.inr ⟨rfl, rfl, rfl, rfl⟩))

/-- What the device's turn can do. -/
theorem deviceTurn_cases (sent : List Byte) (s : State) :
    (∃ i, decodeWire s.cfg sent = .ok i ∧ deviceTurn sent s = exec i s) ∨
    (∃ e, decodeWire s.cfg sent = .error e ∧ deviceTurn sent s = transact [.w sent] s) := by
  unfold deviceTurn
  cases h : decodeWire s.cfg sent with
  | ok i => exact .inl ⟨i, rfl, rfl⟩
  | error e => exact .inr ⟨e, rfl, rfl⟩

/-- What the encoder's turn can do. -/
theorem encoderTurn_cases (s : State) :
    (∃ i, decodeRequest s.desc = .ok i ∧ encoderTurn s = exec i s) ∨
    (∃ e, decodeRequest s.desc = .error e ∧
      encoderTurn s = .next (s.raise false (.badRequest (word0 s.desc)))) := by
  unfold encoderTurn
  cases h : decodeRequest s.desc with
  | ok i => exact .inl ⟨i, rfl, rfl⟩
  | error e => exact .inr ⟨e, rfl, rfl⟩

/-- A script whose head is no later request of an expansion loses nothing. -/
theorem dropChained_of_unchained {item : HostItem} {rest : List HostItem} (h : item.chained = false) :
    dropChained (item :: rest) = item :: rest := by
  simp [dropChained, h]

/-- What is cut from a script begins with no later request of an expansion. -/
theorem dropChained_head {script rest : List HostItem} {item : HostItem} (h : dropChained script = item :: rest) :
    item.chained = false := by
  have := List.head?_dropWhile_not (p := fun x : HostItem => x.chained) script
  simpa [show script.dropWhile (fun x => x.chained) = item :: rest from h] using this

/-- What an encoder reset leaves of the script (R126, log 29). -/
theorem scriptAfterReset_cases (s : State) :
    ((s.phase = .busy ∨ lastFailed s = true) ∧ scriptAfterReset s = dropChained s.script) ∨
    (s.phase = .idle ∧ lastFailed s = false ∧ scriptAfterReset s = s.script) := by
  unfold scriptAfterReset hostScript
  cases s.phase <;> cases lastFailed s <;> simp

/-- What the host's turn can do. -/
theorem hostTurn_cases (s : State) :
    (hostScript s = [] ∧ hostTurn s = .next { s with script := [] }) ∨
    (∃ item rest, hostScript s = item :: rest ∧
      hostTurn s = .next ({ s with script := rest }.submit item.desc)) := by
  unfold hostTurn
  cases h : hostScript s with
  | nil => exact .inl ⟨rfl, rfl⟩
  | cons item rest => exact .inr ⟨item, rest, rfl, rfl⟩

end Sys2Proof.Machine
end

