-- ==== Sys2Proof/Laws/Device.lean ====
section
/-! SUPPORT. The opcodes of an admitted configuration are told apart, what the oracle does with a window, and what the
reference device does with each frame: one lemma per opcode. -/

namespace Sys2Proof.Machine

open Host

/-! ## Opcodes -/

theorem nodup_of_distinctBytes {l : List Byte} (h : distinctBytes l = true) : l.Nodup := by
  induction l with
  | nil => exact List.nodup_nil
  | cons b bs ih =>
    simp only [distinctBytes, Bool.and_eq_true, Bool.not_eq_true', List.contains_eq_mem, decide_eq_false_iff_not] at h
    exact List.nodup_cons.mpr ⟨h.1, ih h.2⟩

/-- The parts of an admitted configuration. -/
theorem valid_parts {c : Config} (h : c.valid = true) :
    c.geometryOk = true ∧ c.opcodesOk = true ∧ c.layout.ok = true ∧ c.pollLimit.ok = true ∧ c.knownOk = true := by
  simpa only [Config.valid, Bool.and_eq_true, and_assoc] using h

theorem boundOpcodes_nodup {c : Config} (h : c.valid = true) : (boundOpcodes c.opc).Nodup := by
  have h2 := (valid_parts h).2.1
  simp only [Config.opcodesOk, Bool.and_eq_true] at h2
  exact nodup_of_distinctBytes h2.1

theorem valid_jedec {c : Config} (h : c.valid = true) : c.opc.jedec = 0x9F#8 := by
  have h2 := (valid_parts h).2.1
  simp only [Config.opcodesOk, Bool.and_eq_true, beq_iff_eq] at h2
  exact h2.2

/-- The twelve opcodes with defaults. -/
def fixedOpcodes (o : Opcodes) : List Byte :=
  [o.reset, o.jedec, o.readReg, o.writeReg, o.writeEnable, o.writeDisable, o.blockErase, o.loadProgramData,
    o.randomLoadProgramData, o.programExecute, o.pageDataRead, o.readData]

theorem boundOpcodes_eq (o : Opcodes) :
    boundOpcodes o = fixedOpcodes o ++ (o.powerDown.toList ++ (o.releasePowerDown.toList ++ o.softwareReset.toList)) := by
  simp only [boundOpcodes, fixedOpcodes, List.append_assoc]

theorem fixedOpcodes_nodup {c : Config} (h : c.valid = true) : (fixedOpcodes c.opc).Nodup := by
  have hn := boundOpcodes_nodup h
  rw [boundOpcodes_eq] at hn
  exact hn.of_append_left

theorem mem_allBytes (b : Byte) : b ∈ (List.range 256).map (BitVec.ofNat 8) := by
  refine List.mem_map.mpr ⟨b.toNat, List.mem_range.mpr b.isLt, ?_⟩
  simp

theorem allBytes_nodup : ((List.range 256).map (BitVec.ofNat 8)).Nodup := by
  refine List.Nodup.map_on ?_ List.nodup_range
  intro x hx y hy hxy
  have hx' := List.mem_range.mp hx
  have hy' := List.mem_range.mp hy
  have := congrArg BitVec.toNat hxy
  simp only [BitVec.toNat_ofNat] at this
  omega

theorem unusedBytes_ne_nil {used : List Byte} (h : used.length < 256) : unusedBytes used ≠ [] := by
  intro he
  have hsub : (List.range 256).map (BitVec.ofNat 8) ⊆ used := by
    intro b hb
    by_contra hn
    have : b ∈ unusedBytes used :=
      List.mem_filter.mpr ⟨hb, by simpa only [Bool.not_eq_true', List.contains_eq_mem, decide_eq_false_iff_not] using hn⟩
    rw [he] at this
    cases this
  have := (List.subperm_of_subset allBytes_nodup hsub).length_le
  rw [List.length_map, List.length_range] at this
  omega

/-- The free choice of an unbound opcode is none of the used bytes. -/
theorem pickUnused_not_mem {used : List Byte} (h : used.length < 256) (k : Nat) : pickUnused used k ∉ used := by
  have hl : k % (unusedBytes used).length < (unusedBytes used).length :=
    Nat.mod_lt _ (List.length_pos_iff.mpr (unusedBytes_ne_nil h))
  have hm : pickUnused used k ∈ unusedBytes used := by
    unfold pickUnused
    rw [List.getD_eq_getElem _ _ hl]
    exact List.getElem_mem hl
  have := (List.mem_filter.mp hm).2
  simpa only [Bool.not_eq_true', List.contains_eq_mem, decide_eq_false_iff_not] using this

theorem boundOpcodes_length (o : Opcodes) : (boundOpcodes o).length ≤ 15 := by
  rw [boundOpcodes_eq]
  cases o.powerDown <;> cases o.releasePowerDown <;> cases o.softwareReset <;> simp [fixedOpcodes]

/-- The power-down opcode is none of the twelve with defaults. -/
theorem powerDownOpcode_not_mem {c : Config} (h : c.valid = true) : powerDownOpcode c ∉ fixedOpcodes c.opc := by
  intro hm
  have hn := boundOpcodes_nodup h
  rw [boundOpcodes_eq] at hn
  unfold powerDownOpcode at hm
  split at hm
  · next b hb =>
    rw [hb] at hn
    exact (List.disjoint_of_nodup_append hn) hm (by simp)
  · have hl := boundOpcodes_length c.opc
    have hsub : ∀ b ∈ fixedOpcodes c.opc, b ∈ boundOpcodes c.opc := by
      intro b hb
      rw [boundOpcodes_eq]
      exact List.mem_append_left _ hb
    exact pickUnused_not_mem (by omega) _ (hsub _ hm)

/-! ## The oracle -/

theorem respond_oracle {c : Config} (h : c.device = .oracle) (d : Device) (sent : List Byte) :
    respond c d sent = .answered (oracleAnswer d.txnCount sent.length) (oracleDevice c d.txnCount) := by
  simp only [respond, h]

theorem respond_reference {c : Config} (h : c.device = .reference) (d : Device) (sent : List Byte) :
    respond c d sent = refRespond c d sent := by
  simp only [respond, h]

/-- The oracle fails, or answers as many bytes as the window has. -/
theorem oracleAnswer_cases (count n : Nat) :
    (∃ t, oracleAnswer count n = .err t) ∨ ∃ m, oracleAnswer count n = .ok m ∧ m.length = n := by
  unfold oracleAnswer
  split
  · next t _ => exact .inl ⟨t, rfl⟩
  · exact .inr ⟨_, rfl, by rw [List.length_map, List.length_range]⟩

/-- A transaction with the oracle always completes. -/
theorem transact_oracle {s : State} (h : s.cfg.device = .oracle) (segs : List Seg) :
    transact segs s =
      .next (s.closeWindow (streamOf s.cfg.rxFill segs)
        (keepResult segs (oracleAnswer s.dev.txnCount (streamOf s.cfg.rxFill segs).length))
        (oracleDevice s.cfg s.dev.txnCount)) :=
  transact_of_answered (respond_oracle h s.dev _)

/-! ## The reference device, opcode by opcode -/

theorem transact_reference {s : State} {segs : List Seg} (hd : s.cfg.device = .reference)
    (hf : s.cfg.ref.txnFail.contains s.dev.txnCount = false) (hp : s.dev.poweredDown = false)
    (hb : s.dev.busyLeft = 0 ∨ isStatus3Read s.cfg (streamOf s.cfg.rxFill segs) = true) :
    transact segs s =
      .next (s.closeWindow (streamOf s.cfg.rxFill segs)
        (.ok (keptOf segs (refHandle s.cfg s.dev (streamOf s.cfg.rxFill segs)).1))
        { (refHandle s.cfg s.dev (streamOf s.cfg.rxFill segs)).2 with txnCount := s.dev.txnCount + 1 }) :=
  transact_of_answered ((respond_reference hd s.dev _).trans (refRespond_of_takes hf hp hb))

/-- The twelve opcodes differ, in the order in which a receiver compares them. -/
theorem fixedOpcodes_ne {c : Config} (h : c.valid = true) :
    (fixedOpcodes c.opc).Pairwise fun a b => ¬b = a := by
  have hn : (fixedOpcodes c.opc).Pairwise (· ≠ ·) := fixedOpcodes_nodup h
  exact hn.imp fun hab hba => hab hba.symm

theorem refHandle_reset (c : Config) (d : Device) (rest : List Byte) :
    refHandle c d (c.opc.reset :: rest) = (blankAnswer (rest.length + 1), { d with sr3 := 0x00#8, busyLeft := 0 }) := by
  simp only [refHandle, if_true]

theorem refHandle_jedec {c : Config} (h : c.valid = true) (d : Device) (rest : List Byte) :
    refHandle c d (c.opc.jedec :: rest) =
      (jedecAnswer c (rest.length + 1), d) := by
  have hn := fixedOpcodes_ne h
  simp only [fixedOpcodes, List.pairwise_cons, List.mem_cons, List.not_mem_nil, or_false, forall_eq_or_imp,
    forall_eq] at hn
  simp only [refHandle, hn, if_true, if_false]

theorem refHandle_readReg {c : Config} (h : c.valid = true) (d : Device) (sel : Byte) (rest : List Byte) :
    refHandle c d (c.opc.readReg :: sel :: rest) =
      (registerAnswer (rest.length + 2) (registerValue c d sel), afterRegisterRead d sel) := by
  have hn := fixedOpcodes_ne h
  simp only [fixedOpcodes, List.pairwise_cons, List.mem_cons, List.not_mem_nil, or_false, forall_eq_or_imp,
    forall_eq] at hn
  simp only [refHandle, hn, if_true, if_false, List.length_cons]

theorem refHandle_writeReg {c : Config} (h : c.valid = true) (d : Device) (sel val : Byte) (rest : List Byte) :
    refHandle c d (c.opc.writeReg :: sel :: val :: rest) =
      (blankAnswer (rest.length + 3), refWriteReg d sel val) := by
  have hn := fixedOpcodes_ne h
  simp only [fixedOpcodes, List.pairwise_cons, List.mem_cons, List.not_mem_nil, or_false, forall_eq_or_imp,
    forall_eq] at hn
  simp only [refHandle, hn, if_true, if_false, List.length_cons]

theorem refHandle_writeEnable {c : Config} (h : c.valid = true) (d : Device) (rest : List Byte) :
    refHandle c d (c.opc.writeEnable :: rest) =
      (blankAnswer (rest.length + 1), refSetWel c d true) := by
  have hn := fixedOpcodes_ne h
  simp only [fixedOpcodes, List.pairwise_cons, List.mem_cons, List.not_mem_nil, or_false, forall_eq_or_imp,
    forall_eq] at hn
  simp only [refHandle, hn, if_true, if_false]

theorem refHandle_writeDisable {c : Config} (h : c.valid = true) (d : Device) (rest : List Byte) :
    refHandle c d (c.opc.writeDisable :: rest) =
      (blankAnswer (rest.length + 1), refSetWel c d false) := by
  have hn := fixedOpcodes_ne h
  simp only [fixedOpcodes, List.pairwise_cons, List.mem_cons, List.not_mem_nil, or_false, forall_eq_or_imp,
    forall_eq] at hn
  simp only [refHandle, hn, if_true, if_false]

theorem refHandle_blockErase {c : Config} (h : c.valid = true) (d : Device) (rest : List Byte) :
    refHandle c d (c.opc.blockErase :: rest) =
      (blankAnswer (rest.length + 1), withPage d (refBlockErase c) rest) := by
  have hn := fixedOpcodes_ne h
  simp only [fixedOpcodes, List.pairwise_cons, List.mem_cons, List.not_mem_nil, or_false, forall_eq_or_imp,
    forall_eq] at hn
  simp only [refHandle, hn, if_true, if_false]

theorem refHandle_loadProgramData {c : Config} (h : c.valid = true) (d : Device) (rest : List Byte) :
    refHandle c d (c.opc.loadProgramData :: rest) =
      (blankAnswer (rest.length + 1), withColumn c d (refLoad c) rest) := by
  have hn := fixedOpcodes_ne h
  simp only [fixedOpcodes, List.pairwise_cons, List.mem_cons, List.not_mem_nil, or_false, forall_eq_or_imp,
    forall_eq] at hn
  simp only [refHandle, hn, if_true, if_false]

theorem refHandle_randomLoadProgramData {c : Config} (h : c.valid = true) (d : Device) (rest : List Byte) :
    refHandle c d (c.opc.randomLoadProgramData :: rest) =
      (blankAnswer (rest.length + 1), withColumn c d (refRandomLoad c) rest) := by
  have hn := fixedOpcodes_ne h
  simp only [fixedOpcodes, List.pairwise_cons, List.mem_cons, List.not_mem_nil, or_false, forall_eq_or_imp,
    forall_eq] at hn
  simp only [refHandle, hn, if_true, if_false]

theorem refHandle_programExecute {c : Config} (h : c.valid = true) (d : Device) (rest : List Byte) :
    refHandle c d (c.opc.programExecute :: rest) =
      (blankAnswer (rest.length + 1), withPage d (refProgram c) rest) := by
  have hn := fixedOpcodes_ne h
  simp only [fixedOpcodes, List.pairwise_cons, List.mem_cons, List.not_mem_nil, or_false, forall_eq_or_imp,
    forall_eq] at hn
  simp only [refHandle, hn, if_true, if_false]

theorem refHandle_pageDataRead {c : Config} (h : c.valid = true) (d : Device) (rest : List Byte) :
    refHandle c d (c.opc.pageDataRead :: rest) =
      (blankAnswer (rest.length + 1), withPage d (refPageRead c) rest) := by
  have hn := fixedOpcodes_ne h
  simp only [fixedOpcodes, List.pairwise_cons, List.mem_cons, List.not_mem_nil, or_false, forall_eq_or_imp,
    forall_eq] at hn
  simp only [refHandle, hn, if_true, if_false]

theorem refHandle_readData {c : Config} (h : c.valid = true) (d : Device) {rest fill : List Byte} {col : U24}
    {dummy : Byte} (hc : takeCol c rest = some (col, dummy :: fill)) :
    refHandle c d (c.opc.readData :: rest) = (bufferAnswer c d col.toNat fill.length, d) := by
  have hn := fixedOpcodes_ne h
  simp only [fixedOpcodes, List.pairwise_cons, List.mem_cons, List.not_mem_nil, or_false, forall_eq_or_imp,
    forall_eq] at hn
  simp only [refHandle, hn, if_true, if_false, hc]

theorem refHandle_powerDown {c : Config} (h : c.valid = true) (d : Device) (rest : List Byte) :
    refHandle c d (powerDownOpcode c :: rest) = (blankAnswer (rest.length + 1), { d with poweredDown := true }) := by
  have hp := powerDownOpcode_not_mem h
  simp only [fixedOpcodes, List.mem_cons, List.not_mem_nil, or_false, not_or] at hp
  simp only [refHandle, hp, if_true, if_false]

/-! ## Addresses on the wire -/

/-- Three bytes joined are the value they were cut from (R10, R175). -/
theorem join_be3 (x : U24) : (x.extractLsb' 16 8 ++ x.extractLsb' 8 8 ++ x.extractLsb' 0 8 : U24) = x := by
  apply BitVec.eq_of_getLsbD_eq
  intro i hi
  simp only [BitVec.getLsbD_append, BitVec.getLsbD_extractLsb']
  by_cases h1 : i < 8
  · simp [h1]
  · by_cases h2 : i - 8 < 8
    · simp [h1, h2, show 8 + (i - 8) = i by omega]
    · simp [h1, h2, show i - 8 - 8 < 8 by omega, show 16 + (i - 8 - 8) = i by omega]

/-- Two bytes joined are the column they were cut from (R10, R176). -/
theorem join_be2 (x : U24) (h : x.toNat < 2 ^ 16) :
    (0x00#8 ++ (x.setWidth 16).extractLsb' 8 8 ++ (x.setWidth 16).extractLsb' 0 8 : U24) = x := by
  apply BitVec.eq_of_getLsbD_eq
  intro i hi
  simp only [BitVec.getLsbD_append, BitVec.getLsbD_extractLsb', BitVec.getLsbD_setWidth]
  by_cases h1 : i < 8
  · simp [h1]
    omega
  · by_cases h2 : i - 8 < 8
    · simp [h1, h2, show 8 + (i - 8) = i by omega]
      omega
    · have hx : x.getLsbD i = false :=
        Nat.testBit_lt_two_pow (lt_of_lt_of_le h (Nat.pow_le_pow_right (by decide) (by omega)))
      simp [h1, h2, hx]

/-- A column as the frame sends it is the column the receiver reads (R148, R152, R176). -/
theorem takeCol_colStream {c : Config} {col : U24} (h : fitsColumn c col = true) (data : List Byte) :
    takeCol c (colStream c col ++ data) = some (col, data) := by
  unfold fitsColumn Config.colBytes at h
  cases hw : c.colWidth with
  | two =>
    rw [hw] at h
    have hc : col.toNat < 2 ^ 16 := by simpa using h
    simp only [takeCol, colStream, hw, be2, List.cons_append, List.nil_append, join_be2 col hc]
  | three => simp only [takeCol, colStream, hw, be3, List.cons_append, List.nil_append, join_be3]

/-- A page as the frame sends it is the page the reference device reads (R99, R102, R103). -/
theorem takePage_be3 (page : U24) : takePage (be3 page) = some page.toNat := by
  simp only [takePage, be3, join_be3]

end Sys2Proof.Machine
end

