-- ==== Sys2Proof/Laws/Memory.lean ====
section
/-! SUPPORT. The laws of the device memories: every operation keeps the canonical form and its bound, and what a read
gives after each of them. -/

namespace Sys2Proof.Machine

/-! ## Reading -/

@[simp] theorem Memory.read_nil (x : Nat) : Memory.read [] x = erasedByte := rfl

theorem Memory.read_cons (a : Nat) (v : Byte) (m : Memory) (x : Nat) :
    Memory.read ((a, v) :: m) x = if a = x then v else Memory.read m x := rfl

theorem Memory.read_of_unlisted {m : Memory} {x : Nat} (h : ∀ y ∈ m, y.1 ≠ x) : m.read x = erasedByte := by
  induction m with
  | nil => rfl
  | cons y m ih =>
    obtain ⟨a, v⟩ := y
    rw [Memory.read_cons, if_neg (h (a, v) (by simp))]
    exact ih fun z hz => h z (by simp [hz])

theorem Memory.read_append_right {a b : Memory} {x : Nat} (h : ∀ y ∈ a, y.1 ≠ x) :
    Memory.read (a ++ b) x = b.read x := by
  induction a with
  | nil => rfl
  | cons y a ih =>
    obtain ⟨k, v⟩ := y
    rw [List.cons_append, Memory.read_cons, if_neg (h (k, v) (by simp))]
    exact ih fun z hz => h z (by simp [hz])

theorem Memory.read_append_left {a b : Memory} {x : Nat} (h : ∀ y ∈ b, y.1 ≠ x) :
    Memory.read (a ++ b) x = a.read x := by
  induction a with
  | nil => exact Memory.read_of_unlisted h
  | cons y a ih =>
    obtain ⟨k, v⟩ := y
    rw [List.cons_append, Memory.read_cons, Memory.read_cons, ih]

theorem Memory.read_filter (m : Memory) (p : Nat → Bool) (x : Nat) :
    Memory.read (m.filter fun y => p y.1) x = if p x then m.read x else erasedByte := by
  induction m with
  | nil => simp
  | cons y m ih =>
    obtain ⟨a, v⟩ := y
    by_cases hp : p a
    · rw [List.filter_cons_of_pos (by simpa using hp), Memory.read_cons, Memory.read_cons, ih]
      by_cases hx : a = x
      · subst hx; simp [hp]
      · simp [hx]
    · rw [List.filter_cons_of_neg (by simpa using hp), ih, Memory.read_cons]
      by_cases hx : a = x
      · subst hx; simp [hp]
      · simp [hx]

theorem Memory.read_map_add (m : Memory) (lo x : Nat) :
    Memory.read (m.map fun y => (lo + y.1, y.2)) (lo + x) = m.read x := by
  induction m with
  | nil => rfl
  | cons y m ih =>
    obtain ⟨a, v⟩ := y
    rw [List.map_cons, Memory.read_cons, Memory.read_cons, ih]
    by_cases h : a = x <;> simp [h]

theorem Memory.read_map_sub {m : Memory} {lo x : Nat} (h : ∀ y ∈ m, lo ≤ y.1) :
    Memory.read (m.map fun y => (y.1 - lo, y.2)) x = m.read (lo + x) := by
  induction m with
  | nil => rfl
  | cons y m ih =>
    obtain ⟨a, v⟩ := y
    have ha : lo ≤ a := h (a, v) (by simp)
    rw [List.map_cons, Memory.read_cons, Memory.read_cons, ih fun z hz => h z (by simp [hz])]
    have : a - lo = x ↔ a = lo + x := by omega
    by_cases hx : a = lo + x
    · rw [if_pos hx, if_pos (this.2 hx)]
    · rw [if_neg hx, if_neg fun h' => hx (this.1 h')]

/-! ## Cells of a run of bytes -/

theorem cellsOf_range {a : Nat} {vs : List Byte} : ∀ y ∈ cellsOf a vs, a ≤ y.1 ∧ y.1 < a + vs.length := by
  induction vs generalizing a with
  | nil => simp [cellsOf]
  | cons v vs ih =>
    intro y hy
    rw [cellsOf] at hy
    split at hy
    · have := ih y hy
      simp only [List.length_cons]
      omega
    · rcases List.mem_cons.1 hy with rfl | hy
      · simp
      · have := ih y hy
        simp only [List.length_cons]
        omega

theorem read_cellsOf {a : Nat} {vs : List Byte} {i : Nat} (h : i < vs.length) :
    Memory.read (cellsOf a vs) (a + i) = vs[i] := by
  induction vs generalizing a i with
  | nil => simp at h
  | cons v vs ih =>
    rw [cellsOf]
    cases i with
    | zero =>
      split
      · next hv =>
        rw [Memory.read_of_unlisted]
        · simp [hv]
        · intro y hy
          have := (cellsOf_range y hy).1
          omega
      · simp [Memory.read_cons]
    | succ i =>
      have hi : i < vs.length := by simpa using h
      have e : a + (i + 1) = a + 1 + i := by omega
      split
      · rw [e, ih hi]; rfl
      · rw [Memory.read_cons, if_neg (by omega), e, ih hi]; rfl

theorem cellsOf_wf (a : Nat) (vs : List Byte) : (cellsOf a vs : Memory).wf := by
  induction vs generalizing a with
  | nil => simp [Memory.wf, cellsOf]
  | cons v vs ih =>
    rw [cellsOf]
    split
    · exact ih _
    · next hv =>
      obtain ⟨h1, h2⟩ := ih (a + 1)
      refine ⟨List.pairwise_cons.2 ⟨fun y hy => ?_, h1⟩, fun y hy => ?_⟩
      · exact Nat.lt_of_lt_of_le (Nat.lt_succ_self a) (cellsOf_range y hy).1
      · rcases List.mem_cons.1 hy with rfl | hy
        · exact hv
        · exact h2 y hy

/-! ## The canonical form -/

theorem Memory.wf_nil : Memory.wf [] := by simp [Memory.wf]

theorem Memory.wf_filter {m : Memory} (h : m.wf) (p : Host.Cell → Bool) : Memory.wf (m.filter p) :=
  ⟨h.1.filter p, fun x hx => h.2 x (List.mem_of_mem_filter hx)⟩

theorem Memory.wf_append {a b : Memory} (ha : a.wf) (hb : b.wf) (hab : ∀ x ∈ a, ∀ y ∈ b, x.1 < y.1) :
    Memory.wf (a ++ b) := by
  refine ⟨List.pairwise_append.2 ⟨ha.1, hb.1, hab⟩, fun x hx => ?_⟩
  rcases List.mem_append.1 hx with h | h
  · exact ha.2 x h
  · exact hb.2 x h

theorem Memory.wf_map {m : Memory} (h : m.wf) (f : Nat → Nat)
    (hf : ∀ x ∈ m, ∀ y ∈ m, x.1 < y.1 → f x.1 < f y.1) : Memory.wf (m.map fun x => (f x.1, x.2)) := by
  refine ⟨?_, fun x hx => ?_⟩
  · rw [List.pairwise_map]
    exact h.1.imp_of_mem fun hx hy hxy => hf _ hx _ hy hxy
  · obtain ⟨y, hy, rfl⟩ := List.mem_map.1 hx
    exact h.2 y hy

/-- The one writing operation keeps the canonical form. -/
theorem Memory.splice_wf {m cells : Memory} {lo n : Nat} (h : m.wf) (hc : cells.wf)
    (hr : ∀ y ∈ cells, lo ≤ y.1 ∧ y.1 < lo + n) : (m.splice lo n cells).wf := by
  refine Memory.wf_append (Memory.wf_filter h _) (Memory.wf_append hc (Memory.wf_filter h _) ?_) ?_
  · intro x hx y hy
    have hy' := (List.mem_filter.1 hy).2
    have hx' := (hr x hx).2
    simp only [decide_eq_true_eq] at hy'
    omega
  · intro x hx y hy
    have hx' := (List.mem_filter.1 hx).2
    simp only [decide_eq_true_eq] at hx'
    rcases List.mem_append.1 hy with h' | h'
    · have := (hr y h').1
      omega
    · have hy' := (List.mem_filter.1 h').2
      simp only [decide_eq_true_eq] at hy'
      omega

theorem Memory.splice_below {m cells : Memory} {lo n bound : Nat} (h : m.below bound) (hc : cells.below bound) :
    (m.splice lo n cells).below bound := by
  intro x hx
  rcases List.mem_append.1 hx with h' | h'
  · exact h x (List.mem_of_mem_filter h')
  · rcases List.mem_append.1 h' with h'' | h''
    · exact hc x h''
    · exact h x (List.mem_of_mem_filter h'')

/-- What a splice does to a read. -/
theorem Memory.read_splice {m cells : Memory} {lo n : Nat} (hr : ∀ y ∈ cells, lo ≤ y.1 ∧ y.1 < lo + n) (x : Nat) :
    (m.splice lo n cells).read x = if lo ≤ x ∧ x < lo + n then cells.read x else m.read x := by
  unfold Memory.splice
  by_cases h1 : x < lo
  · rw [Memory.read_append_left, Memory.read_filter m (fun k => decide (k < lo))]
    · have : ¬(lo ≤ x ∧ x < lo + n) := by omega
      simp [h1, this]
    · intro y hy
      rcases List.mem_append.1 hy with h' | h'
      · have := (hr y h').1
        omega
      · have hy' := (List.mem_filter.1 h').2
        simp only [decide_eq_true_eq] at hy'
        omega
  · rw [Memory.read_append_right]
    · by_cases h2 : x < lo + n
      · rw [Memory.read_append_left, if_pos ⟨by omega, h2⟩]
        intro y hy
        have hy' := (List.mem_filter.1 hy).2
        simp only [decide_eq_true_eq] at hy'
        omega
      · rw [Memory.read_append_right, Memory.read_filter m (fun k => decide (lo + n ≤ k))]
        · have : ¬(lo ≤ x ∧ x < lo + n) := by omega
          simp [this, show lo + n ≤ x by omega]
        · intro y hy
          have := (hr y hy).2
          omega
    · intro y hy
      have hy' := (List.mem_filter.1 hy).2
      simp only [decide_eq_true_eq] at hy'
      omega

/-! ## Each operation -/

theorem Memory.writeBytes_wf {m : Memory} (h : m.wf) (a : Nat) (bs : List Byte) : (m.writeBytes a bs).wf :=
  Memory.splice_wf h (cellsOf_wf a bs) cellsOf_range

theorem Memory.writeBytes_below {m : Memory} {bound : Nat} (h : m.below bound) {a : Nat} {bs : List Byte}
    (hb : bs = [] ∨ a + bs.length ≤ bound) : (m.writeBytes a bs).below bound := by
  refine Memory.splice_below h fun x hx => ?_
  have := cellsOf_range x hx
  rcases hb with rfl | hb
  · simp [cellsOf] at hx
  · omega

theorem Memory.read_writeBytes (m : Memory) (a : Nat) (bs : List Byte) (x : Nat) :
    (m.writeBytes a bs).read x = if h : a ≤ x ∧ x < a + bs.length then bs[x - a]'(by omega) else m.read x := by
  rw [Memory.writeBytes, Memory.read_splice cellsOf_range]
  split
  · next h =>
    obtain ⟨i, rfl⟩ : ∃ i, x = a + i := ⟨x - a, by omega⟩
    rw [read_cellsOf (by omega)]
    simp
  · rfl

theorem Memory.write_wf {m : Memory} (h : m.wf) (a : Nat) (v : Byte) : (m.write a v).wf :=
  Memory.writeBytes_wf h a [v]

theorem Memory.write_below {m : Memory} {bound : Nat} (h : m.below bound) {a : Nat} (ha : a < bound) (v : Byte) :
    (m.write a v).below bound :=
  Memory.writeBytes_below h (.inr (by simpa using ha))

theorem Memory.read_write (m : Memory) (a : Nat) (v : Byte) (x : Nat) :
    (m.write a v).read x = if x = a then v else m.read x := by
  rw [Memory.write, Memory.read_writeBytes]
  by_cases h : x = a
  · subst h; simp
  · have : ¬(a ≤ x ∧ x < a + [v].length) := by simp only [List.length_singleton]; omega
    rw [dif_neg this, if_neg h]

theorem Memory.erase_wf {m : Memory} (h : m.wf) (lo n : Nat) : (m.erase lo n).wf :=
  Memory.splice_wf h Memory.wf_nil (by simp)

theorem Memory.erase_below {m : Memory} {bound : Nat} (h : m.below bound) (lo n : Nat) :
    (m.erase lo n).below bound :=
  Memory.splice_below h (by simp [Memory.below])

theorem Memory.read_erase (m : Memory) (lo n x : Nat) :
    (m.erase lo n).read x = if lo ≤ x ∧ x < lo + n then erasedByte else m.read x := by
  rw [Memory.erase, Memory.read_splice (by simp), Memory.read_nil]

theorem Memory.slice_wf {m : Memory} (h : m.wf) (lo n : Nat) : (m.slice lo n).wf := by
  refine Memory.wf_map (Memory.wf_filter h _) (fun k => k - lo) fun x hx y hy hxy => ?_
  have h1 := (List.mem_filter.1 hx).2
  have h2 := (List.mem_filter.1 hy).2
  simp only [Bool.and_eq_true, decide_eq_true_eq] at h1 h2
  omega

theorem Memory.slice_below (m : Memory) (lo n : Nat) : (m.slice lo n).below n := by
  intro x hx
  obtain ⟨y, hy, rfl⟩ := List.mem_map.1 hx
  have h1 := (List.mem_filter.1 hy).2
  simp only [Bool.and_eq_true, decide_eq_true_eq] at h1
  show y.1 - lo < n
  omega

theorem Memory.read_slice (m : Memory) (lo n x : Nat) :
    (m.slice lo n).read x = if x < n then m.read (lo + x) else erasedByte := by
  rw [Memory.slice, Memory.read_map_sub,
    Memory.read_filter m (fun k => decide (lo ≤ k) && decide (k < lo + n))]
  · by_cases h : x < n
    · simp [h]
    · simp [h]
  · intro y hy
    have h1 := (List.mem_filter.1 hy).2
    simp only [Bool.and_eq_true, decide_eq_true_eq] at h1
    exact h1.1

theorem Memory.putSlice_range {buf : Memory} {lo n : Nat} :
    ∀ y ∈ ((buf.filter fun x => decide (x.1 < n)).map fun x => (lo + x.1, x.2) : Memory),
      lo ≤ y.1 ∧ y.1 < lo + n := by
  intro y hy
  obtain ⟨z, hz, rfl⟩ := List.mem_map.1 hy
  have h1 := (List.mem_filter.1 hz).2
  simp only [decide_eq_true_eq] at h1
  exact ⟨Nat.le_add_right _ _, by show lo + z.1 < lo + n; omega⟩

theorem Memory.putSlice_wf {m buf : Memory} (h : m.wf) (hb : buf.wf) (lo n : Nat) : (m.putSlice lo n buf).wf :=
  Memory.splice_wf h
    (Memory.wf_map (Memory.wf_filter hb _) (fun k => lo + k) fun _ _ _ _ hxy => Nat.add_lt_add_left hxy lo)
    Memory.putSlice_range

theorem Memory.putSlice_below {m buf : Memory} {lo n bound : Nat} (h : m.below bound) (hn : lo + n ≤ bound) :
    (m.putSlice lo n buf).below bound :=
  Memory.splice_below h fun y hy => Nat.lt_of_lt_of_le (Memory.putSlice_range y hy).2 hn

theorem Memory.read_putSlice (m buf : Memory) (lo n x : Nat) :
    (m.putSlice lo n buf).read x = if lo ≤ x ∧ x < lo + n then buf.read (x - lo) else m.read x := by
  rw [Memory.putSlice, Memory.read_splice Memory.putSlice_range]
  split
  · next h =>
    obtain ⟨i, rfl⟩ : ∃ i, x = lo + i := ⟨x - lo, by omega⟩
    rw [Memory.read_map_add, Memory.read_filter buf (fun k => decide (k < n))]
    simp [show i < n by omega]
  · rfl

/-- A fold of writes keeps the canonical form. -/
theorem Memory.foldl_write_wf {cells : List Host.Cell} {a : Host.Cell → Nat} {v : Memory → Host.Cell → Byte}
    {m : Memory} (h : m.wf) : (cells.foldl (fun m x => m.write (a x) (v m x)) m).wf := by
  induction cells generalizing m with
  | nil => exact h
  | cons x xs ih => exact ih (Memory.write_wf h _ _)

theorem Memory.foldl_write_below {cells : List Host.Cell} {a : Host.Cell → Nat} {v : Memory → Host.Cell → Byte}
    {m : Memory} {bound : Nat} (h : m.below bound) (ha : ∀ x ∈ cells, a x < bound) :
    (cells.foldl (fun m x => m.write (a x) (v m x)) m).below bound := by
  induction cells generalizing m with
  | nil => exact h
  | cons x xs ih =>
    exact ih (Memory.write_below h (ha x (by simp)) _) fun y hy => ha y (by simp [hy])

theorem Memory.andSlice_wf {m : Memory} (h : m.wf) (buf : Memory) (lo n : Nat) : (m.andSlice lo n buf).wf :=
  Memory.foldl_write_wf h

theorem Memory.andSlice_below {m buf : Memory} {lo n bound : Nat} (h : m.below bound) (hn : lo + n ≤ bound) :
    (m.andSlice lo n buf).below bound := by
  refine Memory.foldl_write_below h fun x hx => ?_
  have h1 := (List.mem_filter.1 hx).2
  simp only [decide_eq_true_eq] at h1
  omega

@[simp] theorem and_erasedByte (b : Byte) : b &&& erasedByte = b :=
  BitVec.and_allOnes (x := b)

/-- What the AND of a run of cells does to a read, when no address is listed twice. -/
theorem Memory.read_foldl_and {cells : Memory} {m : Memory} {lo x : Nat}
    (h : cells.Pairwise fun y z => y.1 < z.1) :
    (cells.foldl (fun m y => m.write (lo + y.1) (m.read (lo + y.1) &&& y.2)) m).read (lo + x) =
      m.read (lo + x) &&& cells.read x := by
  induction cells generalizing m with
  | nil => simp
  | cons y cells ih =>
    obtain ⟨a, v⟩ := y
    obtain ⟨h1, h2⟩ := List.pairwise_cons.1 h
    rw [List.foldl_cons, ih h2, Memory.read_write, Memory.read_cons]
    by_cases hx : a = x
    · subst hx
      have : Memory.read cells a = erasedByte :=
        Memory.read_of_unlisted fun z hz => Nat.ne_of_gt (h1 z hz)
      simp [this]
    · rw [if_neg (by omega), if_neg hx]

theorem Memory.read_foldl_and_below {cells : Memory} {m : Memory} {lo x : Nat} (h : x < lo) :
    (cells.foldl (fun m y => m.write (lo + y.1) (m.read (lo + y.1) &&& y.2)) m).read x = m.read x := by
  induction cells generalizing m with
  | nil => rfl
  | cons y cells ih => rw [List.foldl_cons, ih, Memory.read_write, if_neg (by omega)]

theorem Memory.read_andSlice {m buf : Memory} (h : buf.wf) (lo n x : Nat) :
    (m.andSlice lo n buf).read x =
      if lo ≤ x ∧ x < lo + n then m.read x &&& buf.read (x - lo) else m.read x := by
  rw [Memory.andSlice]
  by_cases hx : lo ≤ x
  · obtain ⟨i, rfl⟩ : ∃ i, x = lo + i := ⟨x - lo, by omega⟩
    rw [Memory.read_foldl_and ((Memory.wf_filter h _).1), Memory.read_filter buf (fun k => decide (k < n))]
    by_cases hi : i < n
    · simp [hi]
    · simp [hi]
  · rw [Memory.read_foldl_and_below (by omega), if_neg (by omega)]

theorem Memory.ofCells_wf (bound : Nat) (cells : List Host.Cell) : (Memory.ofCells bound cells).wf :=
  Memory.foldl_write_wf Memory.wf_nil

theorem Memory.ofCells_below (bound : Nat) (cells : List Host.Cell) : (Memory.ofCells bound cells).below bound := by
  refine Memory.foldl_write_below (by simp [Memory.below]) fun x hx => ?_
  simpa using (List.mem_filter.1 hx).2

/-! ## Reset -/

theorem State.reset_array_wf : State.reset.dev.array.wf := Memory.wf_nil

theorem State.reset_buf_wf : State.reset.dev.buf.wf := Memory.wf_nil

end Sys2Proof.Machine
end

