-- ==== Sys2Proof/Laws/PerInstr.lean ====
section
/-! SUPPORT. One lemma per instruction about its spelling (30_encoding R120, R123, R157). -/

namespace Sys2Proof.Laws.Form

open Sys2Proof.Machine

/-- The form of an instruction's spelling: a request's descriptor has its reserved byte clear and a data stream as long
as `B` says (R120); a wire command's stream begins with a byte of the Command Table (R157). -/
def Statement (i : Instr) : Prop :=
  ∀ c : Config, i.wf c = true →
    match encode c i with
    | .descriptor d => d.rsvd = 0x00#8 ∧ (d.dataIn = [] ∨ d.dataIn.length = d.b.toNat)
    | .stream bytes => ∃ op rest, bytes = op :: rest ∧ op ∈ commandTable c

/-- A request without data. -/
theorem of_plain {i : Instr} {d : Descriptor} (he : ∀ c, encode c i = .descriptor d) (hr : d.rsvd = 0x00#8)
    (hd : d.dataIn = []) : Statement i := by
  intro c _
  rw [he c]
  exact ⟨hr, .inl hd⟩

/-- A request with data. -/
theorem of_data {i : Instr} {op : Byte} {a : U32} {data : List Byte}
    (he : ∀ c, encode c i = .descriptor (dataRequest op a data)) (hw : ∀ c, i.wf c = fitsLength data) :
    Statement i := by
  intro c h
  rw [he c]
  refine ⟨rfl, .inr ?_⟩
  have : data.length < 2 ^ 32 := by simpa [fitsLength] using (hw c).symm.trans h
  simp only [dataRequest, BitVec.toNat_ofNat, Nat.mod_eq_of_lt this]

/-- A wire command. -/
theorem of_stream {i : Instr} (op : Config → Byte) (rest : Config → List Byte)
    (he : ∀ c, encode c i = .stream (op c :: rest c)) (hm : ∀ c, op c ∈ commandTable c) : Statement i := by
  intro c _
  rw [he c]
  exact ⟨op c, rest c, rfl, hm c⟩

theorem reset : Statement .reset :=
  of_plain (fun _ => rfl) rfl rfl

theorem jedec : Statement .jedec :=
  of_plain (fun _ => rfl) rfl rfl

theorem wren : Statement .wren :=
  of_plain (fun _ => rfl) rfl rfl

theorem wrdi : Statement .wrdi :=
  of_plain (fun _ => rfl) rfl rfl

theorem rdreg (a : Byte) : Statement (.rdreg a) :=
  of_plain (fun _ => rfl) rfl rfl

theorem wrreg (a : Byte) (b : Byte) : Statement (.wrreg a b) :=
  of_plain (fun _ => rfl) rfl rfl

theorem berase (a : U32) : Statement (.berase a) :=
  of_plain (fun _ => rfl) rfl rfl

theorem pload (a : U32) (b : List Byte) : Statement (.pload a b) :=
  of_data (fun _ => rfl) (fun _ => rfl)

theorem ploadr (a : U32) (b : List Byte) : Statement (.ploadr a b) :=
  of_data (fun _ => rfl) (fun _ => rfl)

theorem pexec (a : U32) : Statement (.pexec a) :=
  of_plain (fun _ => rfl) rfl rfl

theorem pread (a : U32) : Statement (.pread a) :=
  of_plain (fun _ => rfl) rfl rfl

theorem rdata (a : U32) (b : U32) : Statement (.rdata a b) :=
  of_plain (fun _ => rfl) rfl rfl

theorem unprot : Statement .unprot :=
  of_plain (fun _ => rfl) rfl rfl

theorem pwrdn : Statement .pwrdn :=
  of_plain (fun _ => rfl) rfl rfl

theorem sread (a : U32) (b : U32) : Statement (.sread a b) :=
  of_plain (fun _ => rfl) rfl rfl

theorem swrite (a : U32) (b : List Byte) : Statement (.swrite a b) :=
  of_data (fun _ => rfl) (fun _ => rfl)

theorem serase (a : U32) (b : U32) : Statement (.serase a b) :=
  of_plain (fun _ => rfl) rfl rfl

theorem scap : Statement .scap :=
  of_plain (fun _ => rfl) rfl rfl

theorem bstat (a : U32) : Statement (.bstat a) :=
  of_plain (fun _ => rfl) rfl rfl

theorem scanst : Statement .scanst :=
  of_plain (fun _ => rfl) rfl rfl

theorem scannx : Statement .scannx :=
  of_plain (fun _ => rfl) rfl rfl

theorem resetWire : Statement .resetWire :=
  of_stream (fun c => c.opc.reset) _ (fun _ => rfl) (fun c => by simp [commandTable])

theorem jedecWire : Statement .jedecWire :=
  of_stream (fun c => c.opc.jedec) _ (fun _ => rfl) (fun c => by simp [commandTable])

theorem readRegWire (a : Byte) : Statement (.readRegWire a) :=
  of_stream (fun c => c.opc.readReg) _ (fun _ => rfl) (fun c => by simp [commandTable])

theorem writeRegWire (a : Byte) (b : Byte) : Statement (.writeRegWire a b) :=
  of_stream (fun c => c.opc.writeReg) _ (fun _ => rfl) (fun c => by simp [commandTable])

theorem writeEnableWire : Statement .writeEnableWire :=
  of_stream (fun c => c.opc.writeEnable) _ (fun _ => rfl) (fun c => by simp [commandTable])

theorem writeDisableWire : Statement .writeDisableWire :=
  of_stream (fun c => c.opc.writeDisable) _ (fun _ => rfl) (fun c => by simp [commandTable])

theorem blockEraseWire (a : U24) : Statement (.blockEraseWire a) :=
  of_stream (fun c => c.opc.blockErase) _ (fun _ => rfl) (fun c => by simp [commandTable])

theorem loadProgramDataWire (a : U24) (b : List Byte) : Statement (.loadProgramDataWire a b) :=
  of_stream (fun c => c.opc.loadProgramData) _ (fun _ => rfl) (fun c => by simp [commandTable])

theorem randomLoadProgramDataWire (a : U24) (b : List Byte) : Statement (.randomLoadProgramDataWire a b) :=
  of_stream (fun c => c.opc.randomLoadProgramData) _ (fun _ => rfl) (fun c => by simp [commandTable])

theorem programExecuteWire (a : U24) : Statement (.programExecuteWire a) :=
  of_stream (fun c => c.opc.programExecute) _ (fun _ => rfl) (fun c => by simp [commandTable])

theorem pageDataReadWire (a : U24) : Statement (.pageDataReadWire a) :=
  of_stream (fun c => c.opc.pageDataRead) _ (fun _ => rfl) (fun c => by simp [commandTable])

theorem readDataWire (a : U24) (b : U32) : Statement (.readDataWire a b) :=
  of_stream (fun c => c.opc.readData) _ (fun _ => rfl) (fun c => by simp [commandTable])

theorem powerDownWire : Statement .powerDownWire :=
  of_stream (fun c => powerDownOpcode c) _ (fun _ => rfl) (fun c => by simp [commandTable])

theorem releasePowerDownWire : Statement .releasePowerDownWire :=
  of_stream (fun c => releaseOpcode c) _ (fun _ => rfl) (fun c => by simp [commandTable])

theorem softwareResetWire : Statement .softwareResetWire :=
  of_stream (fun c => softwareResetOpcode c) _ (fun _ => rfl) (fun c => by simp [commandTable])

end Sys2Proof.Laws.Form
end

