-- ==== Sys2Proof/Laws/Status.lean ====
section
/-! SUPPORT. Bits of a register's fields, and that under an admitted layout setting one field leaves the others
(41_status_decoder R200–R207). -/

namespace Sys2Proof.Machine

/-- Does a field hold bit `i`? -/
def fieldHolds (f : Field) (i : Nat) : Bool := decide (f.lo ≤ i) && decide (i ≤ f.hi)

theorem fieldHolds_iff (f : Field) (i : Nat) : fieldHolds f i = true ↔ f.lo ≤ i ∧ i ≤ f.hi := by
  simp only [fieldHolds, Bool.and_eq_true, decide_eq_true_eq]

/-- A field of a stated width (R200). -/
theorem fits_iff (f : Field) (w : Nat) :
    f.fits w = true ↔ f.lo ≤ f.hi ∧ f.hi ≤ 7 ∧ f.hi + 1 - f.lo = w := by
  simp only [Field.fits, Bool.and_eq_true, decide_eq_true_eq, and_assoc]

/-- The bits of a field's mask (R200). -/
theorem getLsbD_fieldMask {f : Field} (h1 : f.lo ≤ f.hi) (h2 : f.hi ≤ 7) (i : Nat) :
    (fieldMask f).getLsbD i = fieldHolds f i := by
  obtain ⟨hi, lo⟩ := f
  simp only at h1 h2
  have : ∀ hi < 8, ∀ lo < 8, lo ≤ hi → ∀ i < 8, (fieldMask ⟨hi, lo⟩).getLsbD i = fieldHolds ⟨hi, lo⟩ i := by decide
  by_cases hlt : i < 8
  · exact this hi (by omega) lo (by omega) h1 i hlt
  · rw [BitVec.getLsbD_of_ge _ _ (by omega)]
    symm
    simp only [fieldHolds, Bool.and_eq_false_iff, decide_eq_false_iff_not]
    omega

/-- The bits of a field's value (R200). -/
theorem getLsbD_fieldValue {f : Field} {w : Nat} (h : f.fits w = true) (b : Byte) {j : Nat} (hj : j < w) :
    (fieldValue w b f).getLsbD j = b.getLsbD (f.lo + j) := by
  obtain ⟨h1, h2, h3⟩ := (fits_iff f w).mp h
  have hm : (fieldMask f).getLsbD (f.lo + j) = true := by
    rw [getLsbD_fieldMask h1 h2, fieldHolds_iff]
    omega
  simp [fieldValue, fieldGet, hj, BitVec.getLsbD_ushiftRight, BitVec.getLsbD_and, hm]

/-- The bits of a byte with a field set (R200). -/
theorem getLsbD_fieldSet {f : Field} (h1 : f.lo ≤ f.hi) (h2 : f.hi ≤ 7) (b v : Byte) {i : Nat} (hi : i < 8) :
    (fieldSet b f v).getLsbD i = if fieldHolds f i then v.getLsbD (i - f.lo) else b.getLsbD i := by
  simp only [fieldSet, BitVec.getLsbD_or, BitVec.getLsbD_and, BitVec.getLsbD_not, BitVec.getLsbD_shiftLeft,
    getLsbD_fieldMask h1 h2, hi, decide_true, Bool.true_and]
  cases hc : fieldHolds f i with
  | true =>
    have := (fieldHolds_iff f i).mp hc
    simp [show ¬i < f.lo by omega]
  | false => simp

/-- A field that was set holds the value, cut to its width (R200). -/
theorem fieldValue_fieldSet_same {f : Field} {w : Nat} (h : f.fits w = true) (b v : Byte) :
    fieldValue w (fieldSet b f v) f = v.setWidth w := by
  obtain ⟨h1, h2, h3⟩ := (fits_iff f w).mp h
  apply BitVec.eq_of_getLsbD_eq
  intro j hj
  have hc : fieldHolds f (f.lo + j) = true := by
    rw [fieldHolds_iff]
    omega
  rw [getLsbD_fieldValue h _ hj, getLsbD_fieldSet h1 h2 _ _ (by omega), hc]
  simp [hj]

/-- A field disjoint from the one that was set keeps its value (R200). -/
theorem fieldValue_fieldSet_other {f g : Field} {u w : Nat} (hf : f.fits u = true) (hg : g.fits w = true)
    (hd : ∀ i < 8, ¬(fieldHolds f i = true ∧ fieldHolds g i = true)) (b v : Byte) :
    fieldValue w (fieldSet b f v) g = fieldValue w b g := by
  obtain ⟨f1, f2, f3⟩ := (fits_iff f u).mp hf
  obtain ⟨g1, g2, g3⟩ := (fits_iff g w).mp hg
  apply BitVec.eq_of_getLsbD_eq
  intro j hj
  have hc : fieldHolds g (g.lo + j) = true := by
    rw [fieldHolds_iff]
    omega
  have hn : fieldHolds f (g.lo + j) = false := by
    cases h : fieldHolds f (g.lo + j) with
    | false => rfl
    | true => exact absurd ⟨h, hc⟩ (hd _ (by omega))
  rw [getLsbD_fieldValue hg _ hj, getLsbD_fieldValue hg _ hj, getLsbD_fieldSet f1 f2 _ _ (by omega), hn]
  simp

/-- Fields of which no bit has two holders are pairwise disjoint. -/
theorem pairwise_disjoint {fs : List Field} (h : ∀ i < 8, (fs.filter fun f => fieldHolds f i).length ≤ 1) :
    fs.Pairwise fun f g => ∀ i < 8, ¬(fieldHolds f i = true ∧ fieldHolds g i = true) := by
  induction fs with
  | nil => exact List.Pairwise.nil
  | cons f fs ih =>
    refine List.pairwise_cons.mpr ⟨fun g hg i hi hfg => ?_, ih fun i hi => ?_⟩
    · have hl := h i hi
      rw [List.filter_cons_of_pos (p := fun f => fieldHolds f i) hfg.1, List.length_cons] at hl
      have : 0 < (fs.filter fun f => fieldHolds f i).length :=
        List.length_pos_of_mem (List.mem_filter.mpr ⟨hg, hfg.2⟩)
      omega
    · have hl := h i hi
      rw [List.filter_cons] at hl
      split at hl
      · rw [List.length_cons] at hl
        omega
      · exact hl

theorem pairwise_of_cover {fs : List Field} (h : coverByte fs = true) :
    fs.Pairwise fun f g => ∀ i < 8, ¬(fieldHolds f i = true ∧ fieldHolds g i = true) := by
  refine pairwise_disjoint fun i hi => ?_
  have := List.all_eq_true.mp h i (List.mem_range.mpr hi)
  rw [beq_iff_eq] at this
  exact Nat.le_of_eq this

/-- What an admitted layout's Status1 fields are: each of its width, and no bit in two of them (R50, R201). -/
theorem layout_ok_sr1 {l : SrLayout} (h : l.ok = true) :
    (l.srp0.fits 1 = true ∧ l.bp.fits 4 = true ∧ l.tb.fits 1 = true ∧ l.wpE.fits 1 = true ∧ l.srp1.fits 1 = true) ∧
    [l.srp0, l.bp, l.tb, l.wpE, l.srp1].Pairwise
      fun f g => ∀ i < 8, ¬(fieldHolds f i = true ∧ fieldHolds g i = true) := by
  simp only [SrLayout.ok, Bool.and_eq_true] at h
  exact ⟨by tauto, pairwise_of_cover (by tauto)⟩

/-- What an admitted layout's Status3 fields are: each of its width, and no bit in two of them (R52, R206). -/
theorem layout_ok_sr3 {l : SrLayout} (h : l.ok = true) :
    (l.rsvd3.fits 1 = true ∧ l.lutF.fits 1 = true ∧ l.ecc.fits 2 = true ∧ l.pFail.fits 1 = true ∧
      l.eFail.fits 1 = true ∧ l.wel.fits 1 = true ∧ l.busy.fits 1 = true) ∧
    [l.rsvd3, l.lutF, l.ecc, l.pFail, l.eFail, l.wel, l.busy].Pairwise
      fun f g => ∀ i < 8, ¬(fieldHolds f i = true ∧ fieldHolds g i = true) := by
  simp only [SrLayout.ok, Bool.and_eq_true] at h
  exact ⟨by tauto, pairwise_of_cover (by tauto)⟩

/-- Setting `pFail` of Status3 changes that field alone (R206). -/
theorem decodeSr3_set_pFail {l : SrLayout} (h : l.ok = true) (b v : Byte) :
    decodeSr3 l (fieldSet b l.pFail v) = { decodeSr3 l b with pFail := v.setWidth 1 } := by
  obtain ⟨⟨h1, h2, h3, h4, h5, h6, h7⟩, hd⟩ := layout_ok_sr3 h
  simp only [List.pairwise_cons, List.mem_cons, List.not_mem_nil, or_false, forall_eq_or_imp, forall_eq,
    IsEmpty.forall_iff, implies_true, List.Pairwise.nil, and_true] at hd
  obtain ⟨⟨a1, a2, a3, a4, a5, a6⟩, ⟨b1, b2, b3, b4, b5⟩, ⟨c1, c2, c3, c4⟩, ⟨d1, d2, d3⟩, ⟨e1, e2⟩, f1⟩ := hd
  simp only [decodeSr3, Status3.mk.injEq]
  exact ⟨fieldValue_fieldSet_other h4 h1 (fun i hi hc => a3 i hi hc.symm) b v,
    fieldValue_fieldSet_other h4 h2 (fun i hi hc => b2 i hi hc.symm) b v,
    fieldValue_fieldSet_other h4 h3 (fun i hi hc => c1 i hi hc.symm) b v,
    fieldValue_fieldSet_same h4 b v,
    fieldValue_fieldSet_other h4 h5 d1 b v,
    fieldValue_fieldSet_other h4 h6 d2 b v,
    fieldValue_fieldSet_other h4 h7 d3 b v⟩

/-- Setting `eFail` of Status3 changes that field alone (R206). -/
theorem decodeSr3_set_eFail {l : SrLayout} (h : l.ok = true) (b v : Byte) :
    decodeSr3 l (fieldSet b l.eFail v) = { decodeSr3 l b with eFail := v.setWidth 1 } := by
  obtain ⟨⟨h1, h2, h3, h4, h5, h6, h7⟩, hd⟩ := layout_ok_sr3 h
  simp only [List.pairwise_cons, List.mem_cons, List.not_mem_nil, or_false, forall_eq_or_imp, forall_eq,
    IsEmpty.forall_iff, implies_true, List.Pairwise.nil, and_true] at hd
  obtain ⟨⟨a1, a2, a3, a4, a5, a6⟩, ⟨b1, b2, b3, b4, b5⟩, ⟨c1, c2, c3, c4⟩, ⟨d1, d2, d3⟩, ⟨e1, e2⟩, f1⟩ := hd
  simp only [decodeSr3, Status3.mk.injEq]
  exact ⟨fieldValue_fieldSet_other h5 h1 (fun i hi hc => a4 i hi hc.symm) b v,
    fieldValue_fieldSet_other h5 h2 (fun i hi hc => b3 i hi hc.symm) b v,
    fieldValue_fieldSet_other h5 h3 (fun i hi hc => c2 i hi hc.symm) b v,
    fieldValue_fieldSet_other h5 h4 (fun i hi hc => d1 i hi hc.symm) b v,
    fieldValue_fieldSet_same h5 b v,
    fieldValue_fieldSet_other h5 h6 e1 b v,
    fieldValue_fieldSet_other h5 h7 e2 b v⟩

/-- Setting `wel` of Status3 changes that field alone (R206). -/
theorem decodeSr3_set_wel {l : SrLayout} (h : l.ok = true) (b v : Byte) :
    decodeSr3 l (fieldSet b l.wel v) = { decodeSr3 l b with wel := v.setWidth 1 } := by
  obtain ⟨⟨h1, h2, h3, h4, h5, h6, h7⟩, hd⟩ := layout_ok_sr3 h
  simp only [List.pairwise_cons, List.mem_cons, List.not_mem_nil, or_false, forall_eq_or_imp, forall_eq,
    IsEmpty.forall_iff, implies_true, List.Pairwise.nil, and_true] at hd
  obtain ⟨⟨a1, a2, a3, a4, a5, a6⟩, ⟨b1, b2, b3, b4, b5⟩, ⟨c1, c2, c3, c4⟩, ⟨d1, d2, d3⟩, ⟨e1, e2⟩, f1⟩ := hd
  simp only [decodeSr3, Status3.mk.injEq]
  exact ⟨fieldValue_fieldSet_other h6 h1 (fun i hi hc => a5 i hi hc.symm) b v,
    fieldValue_fieldSet_other h6 h2 (fun i hi hc => b4 i hi hc.symm) b v,
    fieldValue_fieldSet_other h6 h3 (fun i hi hc => c3 i hi hc.symm) b v,
    fieldValue_fieldSet_other h6 h4 (fun i hi hc => d2 i hi hc.symm) b v,
    fieldValue_fieldSet_other h6 h5 (fun i hi hc => e1 i hi hc.symm) b v,
    fieldValue_fieldSet_same h6 b v,
    fieldValue_fieldSet_other h6 h7 f1 b v⟩

/-- Setting `busy` of Status3 changes that field alone (R206). -/
theorem decodeSr3_set_busy {l : SrLayout} (h : l.ok = true) (b v : Byte) :
    decodeSr3 l (fieldSet b l.busy v) = { decodeSr3 l b with busy := v.setWidth 1 } := by
  obtain ⟨⟨h1, h2, h3, h4, h5, h6, h7⟩, hd⟩ := layout_ok_sr3 h
  simp only [List.pairwise_cons, List.mem_cons, List.not_mem_nil, or_false, forall_eq_or_imp, forall_eq,
    IsEmpty.forall_iff, implies_true, List.Pairwise.nil, and_true] at hd
  obtain ⟨⟨a1, a2, a3, a4, a5, a6⟩, ⟨b1, b2, b3, b4, b5⟩, ⟨c1, c2, c3, c4⟩, ⟨d1, d2, d3⟩, ⟨e1, e2⟩, f1⟩ := hd
  simp only [decodeSr3, Status3.mk.injEq]
  exact ⟨fieldValue_fieldSet_other h7 h1 (fun i hi hc => a6 i hi hc.symm) b v,
    fieldValue_fieldSet_other h7 h2 (fun i hi hc => b5 i hi hc.symm) b v,
    fieldValue_fieldSet_other h7 h3 (fun i hi hc => c4 i hi hc.symm) b v,
    fieldValue_fieldSet_other h7 h4 (fun i hi hc => d3 i hi hc.symm) b v,
    fieldValue_fieldSet_other h7 h5 (fun i hi hc => e2 i hi hc.symm) b v,
    fieldValue_fieldSet_other h7 h6 (fun i hi hc => f1 i hi hc.symm) b v,
    fieldValue_fieldSet_same h7 b v⟩

/-- Setting `ecc` of Status3 changes that field alone (R206). -/
theorem decodeSr3_set_ecc {l : SrLayout} (h : l.ok = true) (b v : Byte) :
    decodeSr3 l (fieldSet b l.ecc v) = { decodeSr3 l b with ecc := v.setWidth 2 } := by
  obtain ⟨⟨h1, h2, h3, h4, h5, h6, h7⟩, hd⟩ := layout_ok_sr3 h
  simp only [List.pairwise_cons, List.mem_cons, List.not_mem_nil, or_false, forall_eq_or_imp, forall_eq,
    IsEmpty.forall_iff, implies_true, List.Pairwise.nil, and_true] at hd
  obtain ⟨⟨a1, a2, a3, a4, a5, a6⟩, ⟨b1, b2, b3, b4, b5⟩, ⟨c1, c2, c3, c4⟩, ⟨d1, d2, d3⟩, ⟨e1, e2⟩, f1⟩ := hd
  simp only [decodeSr3, Status3.mk.injEq]
  exact ⟨fieldValue_fieldSet_other h3 h1 (fun i hi hc => a2 i hi hc.symm) b v,
    fieldValue_fieldSet_other h3 h2 (fun i hi hc => b1 i hi hc.symm) b v,
    fieldValue_fieldSet_same h3 b v,
    fieldValue_fieldSet_other h3 h4 c1 b v,
    fieldValue_fieldSet_other h3 h5 c2 b v,
    fieldValue_fieldSet_other h3 h6 c3 b v,
    fieldValue_fieldSet_other h3 h7 c4 b v⟩

/-- Whether the block-protect field is 0, as the reference device tests it (R99, R102). -/
theorem fieldGet_bp {l : SrLayout} (h : l.ok = true) (b : Byte) :
    (fieldGet b l.bp != 0#8) = true ↔ (decodeSr1 l b).bp ≠ 0#4 := by
  have hf := (layout_ok_sr1 h).1.2.1
  obtain ⟨h1, h2, h3⟩ := (fits_iff l.bp 4).mp hf
  have hv : (fieldGet b l.bp).toNat < 16 := by
    have : ∀ hi < 8, ∀ lo < 8, lo ≤ hi → hi + 1 - lo = 4 → ∀ b : Byte, (fieldGet b ⟨hi, lo⟩).toNat < 16 := by decide
    exact this l.bp.hi (by omega) l.bp.lo (by omega) h1 h3 b
  have he : (decodeSr1 l b).bp = 0#4 ↔ fieldGet b l.bp = 0#8 := by
    simp only [decodeSr1, fieldValue, ← BitVec.toNat_inj, BitVec.toNat_setWidth, BitVec.toNat_ofNat]
    omega
  rw [bne_iff_ne, ne_eq, ne_eq, he]

end Sys2Proof.Machine
end

