-- ==== Sys2Proof/Tests/Slice0.lean ====
section
/-! SUPPORT. Tests: what the checks refuse, each constructor's decoding from a word written out from the spec, one step
per instruction against the values of 95_test_vectors, and for each statement a state and operands that meet its
hypotheses. -/

namespace Sys2Proof.Tests

open Host Sys2Proof.Machine

/-! ## Helpers -/

/-- The default configuration with the reference device and the three OPEN opcodes bound for the tests. -/
def refConfig : Config :=
  { Config.default with
    device := .reference
    opc := { powerDown := some 0xB9#8, releasePowerDown := some 0xAB#8, softwareReset := some 0x99#8 } }

/-- The reference device "booted" (95_test_vectors): Status1 0x04, Status2 0x18, Status3 0x00. -/
def booted : State :=
  { State.reset with cfg := refConfig, dev := { Device.atPowerUp with sr1 := 0x04#8 } }

/-- The same with a Status3 byte. -/
def bootedWith (sr3 : Byte) : State := { booted with dev := { booted.dev with sr3 := sr3 } }

/-- What an outcome shows through a view of its next state. -/
def view {α : Type} (f : State → α) : Step → Option α
  | .next t => some (f t)
  | .fault _ => none
  | .refused _ => none

/-- The frame a request's first turn drives. -/
def firstFrame (i : Instr) : Option (Option (List Byte)) := view State.bus (exec i booted)

/-- A request whose sequencer has these operations left, with an answer to the first one. -/
def answered (ops : List Op) (r : Ret) (got : TxnResult) : State :=
  { booted with phase := .busy, seq := some { ops := ops, tail := .ret r, acc := [], tryItem := false }, rx := some got }

/-- Code, information and data of the result a turn ends in. -/
def endOf (i : Instr) (s : State) : Option (Byte × U32 × List Byte) :=
  view (fun t => (t.result.kind, t.result.info, t.result.dataOut)) (exec i s)

/-- What a wire command's answer keeps, and the device's status bytes and counts after it. -/
def wireEnd (i : Instr) (s : State) : Option (Option TxnResult × Byte × Byte × Byte × Nat) :=
  view (fun t => (t.rx, t.dev.sr1, t.dev.sr2, t.dev.sr3, t.dev.busyLeft)) (exec i s)

/-! ## What the checks refuse -/

theorem test_wf_column_refused :
    (Instr.loadProgramDataWire 0x010000#24 []).wf Config.default = false ∧
    (Instr.randomLoadProgramDataWire 0x010000#24 []).wf Config.default = false ∧
    (Instr.readDataWire 0x010000#24 0#32).wf Config.default = false := by decide

theorem test_wf_column_three_bytes :
    (Instr.readDataWire 0x010000#24 0#32).wf { Config.default with colWidth := .three } = true := by decide

theorem test_wf_length_refused :
    (Instr.pload 0#32 (List.replicate (2 ^ 32) 0x00#8)).wf Config.default = false ∧
    (Instr.ploadr 0#32 (List.replicate (2 ^ 32) 0x00#8)).wf Config.default = false ∧
    (Instr.swrite 0#32 (List.replicate (2 ^ 32) 0x00#8)).wf Config.default = false := by
  simp only [Instr.wf, fitsLength, List.length_replicate, Nat.lt_irrefl, decide_false, and_self]

theorem test_config_default_ok : Config.default.valid = true ∧ refConfig.valid = true := by decide

theorem test_config_geometry_refused :
    Config.valid { Config.default with pageCount := 0 } = false ∧
    Config.valid { Config.default with pageCount := 100 } = false ∧
    Config.valid { Config.default with pageCount := 2097152 } = false ∧
    Config.valid { Config.default with pageCount := 2097088 } = true := by decide

theorem test_config_opcodes_refused :
    Config.valid { Config.default with opc := { reset := 0x03#8 } } = false ∧
    Config.valid { Config.default with opc := { powerDown := some 0xFF#8 } } = false ∧
    Config.valid { Config.default with opc := { jedec := 0x9E#8 } } = false := by decide

theorem test_config_layout_refused :
    Config.valid { Config.default with layout := { srp0 := ⟨6, 6⟩ } } = false ∧
    Config.valid { Config.default with layout := { ecc := ⟨5, 5⟩ } } = false ∧
    Config.valid { Config.default with layout := { rsvd3 := ⟨8, 8⟩ } } = false := by decide

theorem test_config_poll_refused :
    Config.valid { Config.default with pollLimit := .limit 0 } = false ∧
    Config.valid { Config.default with pollLimit := .limit 4294967296 } = false ∧
    Config.valid { Config.default with pollLimit := .limit 1 } = true := by decide

theorem test_config_known_refused :
    Config.valid { Config.default with knownDevices := [] } = false ∧
    Config.valid { Config.default with knownDevices := [(0xAA22#16, "a"), (0x0000#16, "b")] } = false := by decide

theorem test_step_refuses_config :
    (match step { State.reset with cfg := { Config.default with pageCount := 1 } } with
      | .refused .badConfig => true
      | _ => false) = true := by decide

/-! ## Decoding, from words written out from R120–R122 -/

theorem test_decode_reset : decodeRequest (ofWords 0x00000001#32 0#32 0#32 []) = .ok .reset := by decide
theorem test_decode_jedec : decodeRequest (ofWords 0x00000002#32 0#32 0#32 []) = .ok .jedec := by decide
theorem test_decode_wren : decodeRequest (ofWords 0x00000003#32 0#32 0#32 []) = .ok .wren := by decide
theorem test_decode_wrdi : decodeRequest (ofWords 0x00000004#32 0#32 0#32 []) = .ok .wrdi := by decide
theorem test_decode_rdreg : decodeRequest (ofWords 0x0000C005#32 0#32 0#32 []) = .ok (.rdreg 0xC0#8) := by decide
theorem test_decode_wrreg :
    decodeRequest (ofWords 0x0004A006#32 0#32 0#32 []) = .ok (.wrreg 0xA0#8 0x04#8) := by decide
theorem test_decode_berase :
    decodeRequest (ofWords 0x00000007#32 0x12345678#32 0#32 []) = .ok (.berase 0x12345678#32) := by decide
theorem test_decode_pload :
    decodeRequest (ofWords 0x00000008#32 0#32 2#32 [0xAA#8, 0x55#8]) = .ok (.pload 0#32 [0xAA#8, 0x55#8]) := by
  decide
theorem test_decode_ploadr :
    decodeRequest (ofWords 0x00000009#32 2048#32 1#32 [0x00#8]) = .ok (.ploadr 2048#32 [0x00#8]) := by decide
theorem test_decode_pexec : decodeRequest (ofWords 0x0000000A#32 5#32 0#32 []) = .ok (.pexec 5#32) := by decide
theorem test_decode_pread : decodeRequest (ofWords 0x0000000B#32 1#32 0#32 []) = .ok (.pread 1#32) := by decide
theorem test_decode_rdata :
    decodeRequest (ofWords 0x0000000C#32 0x800#32 1#32 []) = .ok (.rdata 2048#32 1#32) := by decide
theorem test_decode_unprot : decodeRequest (ofWords 0x0000000D#32 0#32 0#32 []) = .ok .unprot := by decide
theorem test_decode_pwrdn : decodeRequest (ofWords 0x0000000E#32 0#32 0#32 []) = .ok .pwrdn := by decide
theorem test_decode_sread :
    decodeRequest (ofWords 0x00000020#32 0x800#32 0x800#32 []) = .ok (.sread 2048#32 2048#32) := by decide
theorem test_decode_swrite :
    decodeRequest (ofWords 0x00000021#32 0#32 1#32 [0xAA#8]) = .ok (.swrite 0#32 [0xAA#8]) := by decide
theorem test_decode_serase :
    decodeRequest (ofWords 0x00000022#32 0#32 0x20000#32 []) = .ok (.serase 0#32 131072#32) := by decide
theorem test_decode_scap : decodeRequest (ofWords 0x00000023#32 0#32 0#32 []) = .ok .scap := by decide
theorem test_decode_bstat : decodeRequest (ofWords 0x00000024#32 5#32 0#32 []) = .ok (.bstat 5#32) := by decide
theorem test_decode_scanst : decodeRequest (ofWords 0x00000030#32 0#32 0#32 []) = .ok .scanst := by decide
theorem test_decode_scannx : decodeRequest (ofWords 0x00000031#32 0#32 0#32 []) = .ok .scannx := by decide

/-- V-E5, V-E6, V-E7 of 95_test_vectors, and V-E8: unused fields are ignored. -/
theorem test_decode_illegal :
    decodeRequest (ofWords 0x0000000F#32 0#32 0#32 []) = .error .unassignedOp ∧
    decodeRequest (ofWords 0x01000001#32 0#32 0#32 []) = .error .reservedBits ∧
    decodeRequest (ofWords 0x00000021#32 0#32 0x800#32 [0xAA#8]) = .error .lengthMismatch ∧
    decodeRequest (ofWords 0x00FFFF01#32 0x12345678#32 0x9ABCDEF0#32 [0x01#8]) = .ok .reset := by decide

/-! ## Decoding, from frames written out from R141–R153 -/

theorem test_decode_resetWire : decodeWire refConfig [0xFF#8] = .ok .resetWire := by decide
theorem test_decode_jedecWire :
    decodeWire refConfig [0x9F#8, 0x00#8, 0x00#8, 0x00#8, 0x00#8] = .ok .jedecWire := by decide
theorem test_decode_readRegWire :
    decodeWire refConfig [0x0F#8, 0xA0#8, 0x00#8] = .ok (.readRegWire 0xA0#8) := by decide
theorem test_decode_writeRegWire :
    decodeWire refConfig [0x1F#8, 0xA0#8, 0x04#8] = .ok (.writeRegWire 0xA0#8 0x04#8) := by decide
theorem test_decode_writeEnableWire : decodeWire refConfig [0x06#8] = .ok .writeEnableWire := by decide
theorem test_decode_writeDisableWire : decodeWire refConfig [0x04#8] = .ok .writeDisableWire := by decide
theorem test_decode_blockEraseWire :
    decodeWire refConfig [0xD8#8, 0x01#8, 0x02#8, 0x03#8] = .ok (.blockEraseWire 0x010203#24) := by decide
theorem test_decode_loadProgramDataWire :
    decodeWire refConfig [0x02#8, 0x01#8, 0x02#8, 0xAA#8] = .ok (.loadProgramDataWire 0x0102#24 [0xAA#8]) := by
  decide
theorem test_decode_randomLoadProgramDataWire :
    decodeWire refConfig [0x84#8, 0x08#8, 0x00#8, 0x00#8] =
      .ok (.randomLoadProgramDataWire 2048#24 [0x00#8]) := by decide
theorem test_decode_programExecuteWire :
    decodeWire refConfig [0x10#8, 0x00#8, 0x00#8, 0x07#8] = .ok (.programExecuteWire 7#24) := by decide
theorem test_decode_pageDataReadWire :
    decodeWire refConfig [0x13#8, 0x00#8, 0x00#8, 0x40#8] = .ok (.pageDataReadWire 64#24) := by decide
theorem test_decode_readDataWire :
    decodeWire refConfig [0x03#8, 0x08#8, 0x00#8, 0x00#8, 0x00#8] = .ok (.readDataWire 2048#24 1#32) := by decide
theorem test_decode_readDataWire_three_bytes :
    decodeWire { refConfig with colWidth := .three } [0x03#8, 0x00#8, 0x08#8, 0x00#8, 0x00#8, 0x00#8] =
      .ok (.readDataWire 2048#24 1#32) := by decide
theorem test_decode_powerDownWire : decodeWire refConfig [0xB9#8] = .ok .powerDownWire := by decide
theorem test_decode_releasePowerDownWire : decodeWire refConfig [0xAB#8] = .ok .releasePowerDownWire := by decide
theorem test_decode_softwareResetWire : decodeWire refConfig [0x99#8] = .ok .softwareResetWire := by decide

/-- R156, R157: other lengths and other first bytes are no frame. -/
theorem test_decode_frame_errors :
    decodeWire refConfig [0xD8#8, 0x00#8, 0x00#8] = .error .frameLength ∧
    decodeWire refConfig [0x06#8, 0x00#8] = .error .frameLength ∧
    decodeWire refConfig [0x55#8] = .error .unknownOpcode ∧ decodeWire refConfig [] = .error .emptyFrame := by decide

/-- The host's table word: a wire byte with zero operands, and a request whose upper bits are zero. -/
theorem test_decodeTableWord :
    decodeTableWord 8 0x13 = some (.pageDataReadWire 0#24) ∧ decodeTableWord 32 0x07 = some (.berase 0#32) ∧
    decodeTableWord 32 0x0004A006 = some (.wrreg 0xA0#8 0x04#8) ∧ decodeTableWord 32 0x0F = none := by decide

/-- A request placed by `withFetchWord` is the next step's instruction. -/
theorem test_withFetchWord_request :
    view State.bus (step (State.reset.withFetchWord 32 0x01)) = some (some [0xFF#8]) := by decide

/-- A frame placed by `withFetchWord` is the next step's instruction. -/
theorem test_withFetchWord_wire :
    view State.bus (step (booted.withFetchWord 8 0x06)) = some none ∧
    view (fun t => t.dev.sr3) (step (booted.withFetchWord 8 0x06)) = some 0x02#8 := by decide

/-! ## One turn of each request: its first frame (42_driver_primitives, examples) or its end -/

theorem test_reset_frame : firstFrame .reset = some (some [0xFF#8]) := by decide
theorem test_jedec_frame : firstFrame .jedec = some (some [0x9F#8, 0x00#8, 0x00#8, 0x00#8, 0x00#8]) := by decide
/-- E1 of 95_test_vectors. -/
theorem test_jedec_result :
    endOf .jedec (answered [.readJedec] .identity (.ok [0xEF#8, 0xAA#8, 0x22#8])) =
      some (0x00#8, 0x01EFAA22#32, []) := by decide
theorem test_wren_frame : firstFrame .wren = some (some [0x06#8]) := by decide
/-- V-P6. -/
theorem test_wren_error :
    endOf .wren (answered [.checkWel] .unit (.ok [0xFF#8, 0xFF#8, 0x00#8])) = some (0x02#8, 0x00#32, []) := by decide
theorem test_wrdi_frame : firstFrame .wrdi = some (some [0x04#8]) := by decide
/-- V-P7. -/
theorem test_wrdi_error :
    endOf .wrdi (answered [.checkWelClear] .unit (.ok [0xFF#8, 0xFF#8, 0x02#8])) = some (0x03#8, 0x02#32, []) := by
  decide
theorem test_rdreg_frame : firstFrame (.rdreg 0xB0#8) = some (some [0x0F#8, 0xB0#8, 0x00#8]) := by decide
/-- V-P3. -/
theorem test_rdreg_result :
    endOf (.rdreg 0xB0#8) (answered [.readReg 0xB0#8] .register (.ok [0xFF#8, 0xFF#8, 0x18#8])) =
      some (0x00#8, 0x18#32, [0x18#8]) := by decide
theorem test_wrreg_frame : firstFrame (.wrreg 0xB0#8 0x18#8) = some (some [0x1F#8, 0xB0#8, 0x18#8]) := by decide
/-- V-P10: the last poll snapshot 0x04 shows `e_fail`. -/
theorem test_berase_failure :
    endOf (.berase 65#32) (answered [.poll 1 (.eraseFlag 65#32)] .unit (.ok [0xFF#8, 0xFF#8, 0x04#8])) =
      some (0x04#8, 65#32, []) := by decide
/-- V-P9: the erase is sent once `wel` is seen. -/
theorem test_berase_frame :
    view State.bus (exec (.berase 65#32) { answered (eraseBody 65#32).tail .unit (.ok [0xFF#8, 0xFF#8, 0x02#8]) with
      trace := [] }) = some (some [0xD8#8, 0x00#8, 0x00#8, 0x41#8]) := by decide
/-- R217's example. -/
theorem test_pload_frame :
    view State.bus (exec (.pload 0#32 [0xAA#8, 0x55#8])
      (answered (loadBody refConfig 0#32 [0xAA#8, 0x55#8]).tail .unit (.ok [0xFF#8, 0xFF#8, 0x02#8]))) =
      some (some [0x02#8, 0x00#8, 0x00#8, 0xAA#8, 0x55#8]) := by decide
/-- R218's example. -/
theorem test_ploadr_frame :
    view State.bus (exec (.ploadr 2048#32 [0x00#8])
      (answered (randomLoadBody refConfig 2048#32 [0x00#8]).tail .unit (.ok [0xFF#8, 0xFF#8, 0x02#8]))) =
      some (some [0x84#8, 0x08#8, 0x00#8, 0x00#8]) := by decide
theorem test_pexec_frame : firstFrame (.pexec 0x12345678#32) = some (some [0x10#8, 0x34#8, 0x56#8, 0x78#8]) := by
  decide
/-- V-P24. -/
theorem test_pexec_failure :
    endOf (.pexec 3#32) (answered [.poll 1 (.programFlag 3#32)] .unit (.ok [0xFF#8, 0xFF#8, 0x08#8])) =
      some (0x05#8, 3#32, []) := by decide
theorem test_pread_frame : firstFrame (.pread 1#32) = some (some [0x13#8, 0x00#8, 0x00#8, 0x01#8]) := by decide
/-- V-P19: `POLL_LIMIT = 1`. -/
theorem test_pread_timeout :
    endOf (.pread 0#32) { answered [.poll 0 .nothing] .unit (.ok [0xFF#8, 0xFF#8, 0x01#8]) with
      cfg := { refConfig with pollLimit := .limit 1 } } = some (0x09#8, 1#32, []) := by decide
/-- V-P18. -/
theorem test_rdata_frame :
    firstFrame (.rdata 2110#32 4#32) =
      some (some [0x03#8, 0x08#8, 0x3E#8, 0x00#8, 0x00#8, 0x00#8, 0x00#8, 0x00#8]) := by decide
/-- V-P15: the write keeps `srp0`. -/
theorem test_unprot_write :
    view State.bus (exec .unprot (answered [.unprotRead, .unprotVerify] .unit (.ok [0xFF#8, 0xFF#8, 0xFC#8]))) =
      some (some [0x1F#8, 0xA0#8, 0x84#8]) := by decide
/-- V-P14. -/
theorem test_unprot_error :
    endOf .unprot (answered [.unprotVerify] .unit (.ok [0xFF#8, 0xFF#8, 0x7C#8])) = some (0x06#8, 0x0F#32, []) := by
  decide
theorem test_pwrdn_frame : firstFrame .pwrdn = some (some [0xB9#8]) := by decide
theorem test_sread_frame : firstFrame (.sread 0x800#32 2048#32) = some (some [0x13#8, 0x00#8, 0x00#8, 0x01#8]) := by
  decide
/-- E9, and `OutOfBounds` first (R260). -/
theorem test_sread_errors :
    endOf (.sread 100#32 2048#32) booted = some (0x07#8, 100#32, []) ∧
    endOf (.sread 100#32 0x10000000#32) booted = some (0x08#8, 100#32, []) := by decide
/-- E9. -/
theorem test_swrite_error : endOf (.swrite 0#32 [0xAA#8]) booted = some (0x07#8, 0#32, []) := by decide
/-- R264: no data, no transaction. -/
theorem test_swrite_empty : endOf (.swrite 0x10000000#32 []) booted = some (0x00#8, 0#32, []) := by decide
/-- E19. -/
theorem test_serase_errors :
    endOf (.serase 65536#32 131072#32) booted = some (0x07#8, 65536#32, []) ∧
    endOf (.serase 131072#32 0#32) booted = some (0x08#8, 131072#32, []) := by decide
/-- R265: `A = B` erases one block under `Inclusive`, none under `Exclusive`. -/
theorem test_serase_range :
    view State.bus (exec (.serase 0#32 0#32) booted) = some (some [0x06#8]) ∧
    endOf (.serase 0#32 0#32) { booted with cfg := { refConfig with eraseRange := .exclusive } } =
      some (0x00#8, 0#32, []) := by decide
/-- E18. -/
theorem test_scap : endOf .scap booted = some (0x00#8, 0x10000000#32, []) := by decide
theorem test_bstat_frame : firstFrame (.bstat 0x20005#32) = some (some [0x13#8, 0x00#8, 0x00#8, 0x40#8]) := by decide
/-- E4. -/
theorem test_bstat_failed :
    endOf (.bstat 0#32) (answered [.readData markerCol 1#32] .marker (.ok [0x7F#8])) = some (0x00#8, 0#32, []) := by
  decide
/-- R290's example. -/
theorem test_scanst :
    view (fun t => (t.scanActive, t.scanNextPage, t.scanEnd)) (exec .scanst booted) =
      some (true, 0#32, 0x1FFC0#32) := by decide
/-- R333. -/
theorem test_scannx_end : endOf .scannx booted = some (0x00#8, 0xFFFFFFFF#32, []) := by decide
/-- R291's example: block 1. -/
theorem test_scannx_item :
    endOf .scannx { booted with
      phase := .busy
      seq := some { ops := [.readData markerCol 1#32], tail := .ret (.item 64#32), acc := [0xA5#8, 0x5A#8], tryItem := true }
      rx := some (.ok [0x00#8]) } = some (0x00#8, 64#32, [0xA5#8, 0x5A#8, 0x00#8]) := by decide

/-! ## One turn of each wire command on the reference device (R94–R105) -/

theorem test_resetWire : wireEnd .resetWire (bootedWith 0x0E#8) = some (some (.ok []), 0x04#8, 0x18#8, 0x00#8, 0) := by
  decide
theorem test_jedecWire :
    wireEnd .jedecWire booted = some (some (.ok [0xEF#8, 0xAA#8, 0x22#8]), 0x04#8, 0x18#8, 0x00#8, 0) := by decide
theorem test_readRegWire :
    wireEnd (.readRegWire 0xB0#8) booted =
      some (some (.ok [0xFF#8, 0xFF#8, 0x18#8]), 0x04#8, 0x18#8, 0x00#8, 0) := by decide
/-- R96: a busy device reports `busy` and counts down. -/
theorem test_readRegWire_busy :
    wireEnd (.readRegWire 0xC0#8) { booted with dev := { booted.dev with busyLeft := 2 } } =
      some (some (.ok [0xFF#8, 0xFF#8, 0x01#8]), 0x04#8, 0x18#8, 0x00#8, 1) := by decide
theorem test_writeRegWire :
    wireEnd (.writeRegWire 0xA0#8 0x7C#8) booted = some (some (.ok []), 0x7C#8, 0x18#8, 0x00#8, 0) := by decide
theorem test_writeEnableWire :
    wireEnd .writeEnableWire booted = some (some (.ok []), 0x04#8, 0x18#8, 0x02#8, 0) := by decide
theorem test_writeDisableWire :
    wireEnd .writeDisableWire (bootedWith 0x0E#8) = some (some (.ok []), 0x04#8, 0x18#8, 0x0C#8, 0) := by decide
/-- R99: page 65 erases block 1 and leaves the bytes around it. -/
theorem test_blockEraseWire :
    view (fun t => (t.dev.array, t.dev.sr3, t.dev.busyLeft)) (exec (.blockEraseWire 65#24)
      { bootedWith 0x06#8 with dev := { (bootedWith 0x06#8).dev with
          array := [(135167, 0x01#8), (135168, 0x02#8), (270335, 0x03#8), (270336, 0x04#8)] } }) =
      some ([(135167, 0x01#8), (270336, 0x04#8)], 0x00#8, 1) := by decide
/-- R99: block protection makes the erase fail. -/
theorem test_blockEraseWire_protected :
    wireEnd (.blockEraseWire 0#24) { bootedWith 0x02#8 with dev := { (bootedWith 0x02#8).dev with sr1 := 0x7C#8 } } =
      some (some (.ok []), 0x7C#8, 0x18#8, 0x04#8, 1) := by decide
/-- R100: the rest of the buffer is filled; bytes past the end are dropped. -/
theorem test_loadProgramDataWire :
    view (fun t => t.dev.buf) (exec (.loadProgramDataWire 2111#24 [0xAA#8, 0x55#8])
      { bootedWith 0x02#8 with dev := { (bootedWith 0x02#8).dev with buf := [(0, 0x11#8)] } }) =
      some [(2111, 0xAA#8)] := by decide
/-- R101: the rest of the buffer is kept. -/
theorem test_randomLoadProgramDataWire :
    view (fun t => t.dev.buf) (exec (.randomLoadProgramDataWire 2#24 [0xAA#8, 0xFF#8])
      { bootedWith 0x02#8 with dev := { (bootedWith 0x02#8).dev with buf := [(0, 0x11#8), (3, 0x12#8)] } }) =
      some [(0, 0x11#8), (2, 0xAA#8)] := by decide
/-- R102: the buffer becomes page 1. -/
theorem test_programExecuteWire :
    view (fun t => (t.dev.array, t.dev.sr3)) (exec (.programExecuteWire 1#24)
      { bootedWith 0x0A#8 with dev := { (bootedWith 0x0A#8).dev with
          buf := [(0, 0xAA#8)], array := [(2111, 0x01#8), (2113, 0x02#8), (4224, 0x03#8)] } }) =
      some ([(2111, 0x01#8), (2112, 0xAA#8), (4224, 0x03#8)], 0x00#8) := by decide
/-- R102, `AndMask`. -/
theorem test_programExecuteWire_and :
    view (fun t => t.dev.array) (exec (.programExecuteWire 0#24)
      { bootedWith 0x02#8 with
        cfg := { refConfig with ref := { programSemantics := .andMask } }
        dev := { (bootedWith 0x02#8).dev with buf := [(0, 0x3C#8)], array := [(0, 0xF0#8), (1, 0x01#8)] } }) =
      some [(0, 0x30#8), (1, 0x01#8)] := by decide
/-- R103: page 1 comes into the buffer, `ecc` is cleared, `wel` stays. -/
theorem test_pageDataReadWire :
    view (fun t => (t.dev.buf, t.dev.sr3, t.dev.busyLeft)) (exec (.pageDataReadWire 1#24)
      { bootedWith 0x32#8 with dev := { (bootedWith 0x32#8).dev with
          array := [(2111, 0x01#8), (2117, 0x02#8), (4224, 0x03#8)] } }) =
      some ([(5, 0x02#8)], 0x02#8, 1) := by decide
/-- R104: past the buffer's end a read gives 0xFF. -/
theorem test_readDataWire :
    view State.rx (exec (.readDataWire 2110#24 3#32)
      { booted with dev := { booted.dev with buf := [(2110, 0x01#8), (2111, 0x02#8)] } }) =
      some (some (.ok [0x01#8, 0x02#8, 0xFF#8])) := by decide
theorem test_powerDownWire : view (fun t => t.dev.poweredDown) (exec .powerDownWire booted) = some true := by decide
/-- R92: an opcode that no rule of the reference device names has no effect. -/
theorem test_releasePowerDownWire :
    wireEnd .releasePowerDownWire (bootedWith 0x02#8) = some (some (.ok []), 0x04#8, 0x18#8, 0x02#8, 0) := by decide
theorem test_softwareResetWire :
    wireEnd .softwareResetWire (bootedWith 0x02#8) = some (some (.ok []), 0x04#8, 0x18#8, 0x02#8, 0) := by decide

/-! ## Codecs and status fields (95_test_vectors 2.1, 2.2) -/

/-- V-A2, V-A4, V-A5, V-A8. -/
theorem test_codec_vectors :
    fromByteAddress 0xFFFFFFFF#32 = 0x1FFFFF#32 ∧ toByteAddress 0x200000#32 = 0#32 ∧
    incrementPage 0xFFFFFFFF#32 = (0xFFFFFFFF#32, 0#32) ∧ serCol Config.default 0x12345#32 = [0x23#8, 0x45#8] := by
  decide
/-- V-A9, V-A10, V-A11, V-A12. -/
theorem test_generator_vectors :
    blocksTake 5 (blocks 0#32 128#32) = [0#32, 64#32, 128#32] ∧ blocksTake 2 (blocks 64#32 64#32) = [64#32] ∧
    blocksTake 2 (blocks 128#32 64#32) = [] ∧
    blocksTake 3 (blocks 0xFFFFFFC0#32 0xFFFFFFFF#32) = [0xFFFFFFC0#32] ∧
    blocksTake 4 (blocks 10#32 140#32) = [10#32, 74#32, 138#32] := by decide
/-- V-D1, V-D3, V-D4. -/
theorem test_field_vectors :
    fieldGet 0x7C#8 ⟨6, 3⟩ = 0x0F#8 ∧ fieldSet 0x7C#8 ⟨6, 3⟩ 0x00#8 = 0x04#8 ∧
    fieldSet 0x00#8 ⟨6, 3⟩ 0x1F#8 = 0x78#8 ∧ encodeSr1 {} ⟨1#1, 5#4, 0#1, 1#1, 0#1⟩ = 0xAA#8 ∧
    clearBp {} 0xFF#8 = 0x87#8 := by decide
/-- V-D10, V-D11. -/
theorem test_jedec_vectors :
    (jedecDecode Config.default.knownDevices 0xC2#8 0xAA#8 0x22#8).name = .known "W25N02KV" ∧
    (jedecDecode Config.default.knownDevices 0xEF#8 0xAA#8 0x21#8).name = .unknown := by decide

/-! ## States and operands that meet the statements' hypotheses

Each `witness_<Name>` belongs to `Obligations.<Name>`; where a statement has several clauses, it meets each, at boundary
values of their ranges. -/

/-- A Status read whose value is `v`. -/
def reads (v : Byte) : RegRead := ⟨0xFF#8, 0xFF#8, v⟩

/-- A bounded poll with one read to spare. -/
def boundedConfig : Config := { refConfig with pollLimit := .limit 2 }

theorem booted_ready : refIdle booted := ⟨⟨rfl, by decide, rfl⟩, rfl⟩

theorem booted_seq : booted.seq = none := rfl

theorem poll_immediate : pollEnds refConfig [] (reads 0x00#8) := by
  refine ⟨by simp, by unfold busySet; decide, fun n h => ?_⟩
  cases h

theorem poll_bounded : pollEnds boundedConfig [reads 0x01#8] (reads 0x0C#8) := by
  refine ⟨?_, by unfold busySet; decide, fun n h => ?_⟩
  · intro x hx
    rw [List.mem_singleton.mp hx]
    unfold busySet
    decide
  · cases h
    decide

/-- Draws of a block or chunk that runs, the last snapshot being `v`. -/
def drawsEnding (v : Byte) : WriteDraw := ⟨reads 0x02#8, [], reads v⟩

theorem drawsEnding_runs_good : (drawsEnding 0x00#8).runs refConfig := ⟨by decide, poll_immediate⟩

theorem drawsEnding_runs_failed : (drawsEnding 0x0C#8).runs refConfig := by
  refine ⟨by decide, by simp [drawsEnding], ?_, fun n h => ?_⟩
  · unfold busySet
    decide
  · cases h

theorem witness_DecodeEncode :
    Config.default.valid = true ∧ (Instr.readDataWire 0x00FFFF#24 0xFFFFFFFF#32).wf Config.default = true ∧
    (Instr.swrite 0xFFFFFFFF#32 [0x00#8]).wf Config.default = true := by decide

theorem witness_CommandTableDistinct :
    refConfig.valid = true ∧
    ¬((commandTable { refConfig with opc := { refConfig.opc with reset := 0x03#8 } }).Nodup ∧
      refConfig.opc.jedec = 0x9F#8) ∧
    ¬((commandTable refConfig).Nodup ∧ ({ refConfig.opc with jedec := 0x9E#8 } : Opcodes).jedec = 0x9F#8) := by decide

theorem witness_GeometryRefused :
    Config.valid { Config.default with pageCount := 64 } = true ∧
    ¬(64 ≤ 63 ∧ 63 % 64 = 0 ∧ 63 * 2048 ≤ 2 ^ 32 - 1) ∧
    ¬(64 ≤ 2097152 ∧ 2097152 % 64 = 0 ∧ 2097152 * 2048 ≤ 2 ^ 32 - 1) := by decide

/-- The descriptors of R123: every end of the unassigned ranges, a reserved bit, a length too small and too large; and
two that spell a request. -/
theorem witness_IllegalDescriptors_op :
    ∀ op ∈ [0x00#8, 0x0F#8, 0x1F#8, 0x25#8, 0x2F#8, 0x32#8, 0xFF#8], illFormed (plainRequest op) := by
  unfold illFormed
  decide

theorem witness_IllegalDescriptors_rsvd : illFormed { plainRequest 0x01#8 with rsvd := 0x01#8 } := by
  unfold illFormed
  decide

theorem witness_IllegalDescriptors_length :
    illFormed { plainRequest 0x08#8 with b := 1#32 } ∧ illFormed { plainRequest 0x21#8 with dataIn := [0xAA#8] } := by
  unfold illFormed
  decide

theorem witness_IllegalDescriptors_legal :
    ∀ op ∈ [0x01#8, 0x0E#8, 0x20#8, 0x24#8, 0x30#8, 0x31#8], ¬illFormed (plainRequest op) := by
  unfold illFormed
  decide

theorem witness_IllegalDescriptors :
    let s : State := { booted with phase := .busy, desc := plainRequest 0x0F#8 }
    s.cfg.valid = true ∧ s.bus = none ∧ s.resetReq = false ∧ s.phase = .busy ∧ illFormed s.desc :=
  ⟨by decide, rfl, rfl, rfl, witness_IllegalDescriptors_op _ (by decide)⟩

theorem witness_RequestTable : ([0xAA#8] : List Byte).length = (1#32 : U32).toNat := by decide

theorem witness_FrameStreams : refConfig.valid = true := by decide

theorem witness_GeneratorCount :
    ((0xFFFFFFBF#32 : U32).toNat ≤ (0xFFFFFFBF#32 : U32).toNat ∧ (0xFFFFFFBF#32 : U32).toNat < 2 ^ 32 - 64) ∧
    (0#32 : U32).toNat ≤ (64#32 : U32).toNat ∧ (63#32 : U32).toNat < (64#32 : U32).toNat := by decide

theorem witness_GeneratorFinite : (blocksNext (blocks 1#32 0#32)).1 = none := by decide

theorem witness_AddressCodecs :
    Config.default.colWidth = .two ∧ ({ Config.default with colWidth := .three } : Config).colWidth = .three := by
  decide

theorem witness_FieldLaws :
    ((⟨7, 0⟩ : Field).lo ≤ (⟨7, 0⟩ : Field).hi ∧ (⟨7, 0⟩ : Field).hi ≤ 7) ∧
    ((⟨6, 3⟩ : Field).lo ≤ (⟨6, 3⟩ : Field).hi ∧ (⟨6, 3⟩ : Field).hi ≤ 7 ∧ 2 < (⟨6, 3⟩ : Field).lo ∧
      (⟨6, 3⟩ : Field).hi < 7) := by decide

theorem witness_StatusRoundTrip : SrLayout.ok {} = true ∧
    SrLayout.ok { srp0 := ⟨0, 0⟩, bp := ⟨4, 1⟩, tb := ⟨5, 5⟩, wpE := ⟨6, 6⟩, srp1 := ⟨7, 7⟩ } = true := by decide

theorem witness_DefaultLayoutFields : 0 < 4 ∧ 3 < 4 := by decide

theorem witness_ClearBlockProtect : SrLayout.ok {} = true := by decide

theorem witness_JedecDecode :
    (jedecDecode refConfig.knownDevices 0xEF#8 0xAA#8 0x22#8).name = .known "W25N02KV" ∧ refConfig.valid = true := by
  decide

theorem witness_OracleAnswers :
    isRequest .resetWire = false ∧ isRequest (.readDataWire 0#24 0#32) = false ∧
    isRequest .softwareResetWire = false ∧ State.reset.cfg.device = .oracle := by decide

theorem witness_RefControl : booted.cfg.valid = true ∧ refIdle booted := ⟨by decide, booted_ready⟩

theorem witness_RefReads :
    booted.cfg.valid = true ∧ refIdle booted ∧ fitsColumn booted.cfg 0xFFFF#24 = true :=
  ⟨by decide, booted_ready, by decide⟩

/-- Both a free device and, for Status3, a busy one; every kind of select. -/
theorem witness_RefRegisters :
    booted.cfg.valid = true ∧ refReady booted ∧ booted.dev.busyLeft = 0 ∧
    refReady { booted with dev := { booted.dev with busyLeft := 1 } } ∧ (0xC0#8 = 0xC0#8 ∧ 0xA0#8 ≠ 0xC0#8 ∧
      0x55#8 ≠ 0xA0#8 ∧ 0x55#8 ≠ 0xB0#8 ∧ 0x55#8 ≠ 0xC0#8) :=
  ⟨by decide, booted_ready.1, rfl, ⟨rfl, by decide, rfl⟩, by decide⟩

/-- `wel` clear; `wel` set with the last page of the array, the first page outside it, block protection, and a block
that fails. -/
theorem witness_RefErase :
    booted.cfg.valid = true ∧ refIdle booted ∧ refIdle (bootedWith 0x02#8) ∧
    (decodeSr3 {} booted.dev.sr3).wel = 0#1 ∧ (decodeSr3 {} (bootedWith 0x02#8).dev.sr3).wel = 1#1 ∧
    ¬refForbids (bootedWith 0x02#8) 131071 ∧ refForbids (bootedWith 0x02#8) 131072 ∧
    refForbids { bootedWith 0x02#8 with dev := { (bootedWith 0x02#8).dev with sr1 := 0x08#8 } } 0 ∧
    131071 / 64 ∉ refConfig.ref.failErase ∧
    127 / 64 ∈ ({ refConfig with ref := { failErase := [1] } } : Config).ref.failErase := by
  refine ⟨by decide, booted_ready, ⟨⟨rfl, by decide, rfl⟩, rfl⟩, by decide, by decide, ?_, ?_, ?_, by decide, by decide⟩
    <;> unfold refForbids <;> decide

theorem witness_RefLoads :
    booted.cfg.valid = true ∧ refIdle (bootedWith 0x02#8) ∧ fitsColumn refConfig 2111#24 = true ∧
    (decodeSr3 {} (bootedWith 0x02#8).dev.sr3).wel = 1#1 ∧ (decodeSr3 {} booted.dev.sr3).wel = 0#1 :=
  ⟨by decide, ⟨⟨rfl, by decide, rfl⟩, rfl⟩, by decide, by decide, by decide⟩

theorem booted_memory : deviceMemoryOk booted := by
  refine ⟨Memory.wf_nil, ?_, Memory.wf_nil, ?_⟩ <;> intro x hx <;> cases hx

theorem witness_RefProgram :
    booted.cfg.valid = true ∧ refIdle (bootedWith 0x02#8) ∧ deviceMemoryOk (bootedWith 0x02#8) ∧
    (decodeSr3 {} (bootedWith 0x02#8).dev.sr3).wel = 1#1 ∧ (decodeSr3 {} booted.dev.sr3).wel = 0#1 ∧
    ¬refForbids (bootedWith 0x02#8) 131071 ∧ refForbids (bootedWith 0x02#8) 131072 ∧
    131071 ∉ refConfig.ref.failProgram ∧
    3 ∈ ({ refConfig with ref := { failProgram := [3] } } : Config).ref.failProgram := by
  refine ⟨by decide, ⟨⟨rfl, by decide, rfl⟩, rfl⟩, booted_memory, by decide, by decide, ?_, ?_, by decide, by decide⟩
    <;> unfold refForbids <;> decide

theorem witness_RefPageRead : booted.cfg.valid = true ∧ refIdle booted := witness_RefControl

/-- A listed transaction, a powered-down device, a busy one. -/
theorem witness_RefFailsOrRefuses :
    booted.cfg.valid = true ∧ booted.cfg.device = .reference ∧
    encode booted.cfg .resetWire = .stream [0xFF#8] ∧
    booted.dev.txnCount ∈ ({ refConfig with ref := { txnFail := [0] } } : Config).ref.txnFail ∧
    booted.dev.txnCount ∉ booted.cfg.ref.txnFail ∧
    ({ booted.dev with poweredDown := true } : Device).poweredDown = true ∧
    (booted.dev.poweredDown = false ∧ 0 < ({ booted.dev with busyLeft := 1 } : Device).busyLeft) ∧
    Instr.readRegWire 0xA0#8 ≠ .readRegWire 0xC0#8 := by decide

theorem witness_RefFailsOrRefuses_lone : booted.cfg.valid = true ∧ refIdle booted := witness_RefControl

theorem witness_PlainRequests : booted.seq = none := booted_seq

theorem witness_ReadingRequests :
    booted.seq = none ∧ ([] : List Byte).length = (0#32 : U32).toNat ∧ [0x01#8].length = (1#32 : U32).toNat := by
  decide

theorem witness_WriteLatchRequests :
    booted.seq = none ∧ (decodeSr3 refConfig.layout (reads 0x02#8).value).wel = 1#1 ∧
    (decodeSr3 refConfig.layout (reads 0xFD#8).value).wel = 0#1 := by decide

theorem witness_BlockErase :
    booted.seq = none ∧ (drawsEnding 0x00#8).runs booted.cfg ∧ (drawsEnding 0x0C#8).runs booted.cfg ∧
    (decodeSr3 refConfig.layout (drawsEnding 0x00#8).last.value).eFail = 0#1 ∧
    (decodeSr3 refConfig.layout (drawsEnding 0x0C#8).last.value).eFail = 1#1 ∧
    (decodeSr3 refConfig.layout (reads 0xFD#8).value).wel = 0#1 :=
  ⟨rfl, drawsEnding_runs_good, drawsEnding_runs_failed, by decide, by decide, by decide⟩

theorem witness_Loads :
    booted.seq = none ∧ (decodeSr3 refConfig.layout (reads 0x02#8).value).wel = 1#1 ∧
    (decodeSr3 refConfig.layout (reads 0x00#8).value).wel = 0#1 := by decide

theorem witness_ProgramExecute :
    ({ booted with cfg := boundedConfig } : State).seq = none ∧
    pollEnds boundedConfig [reads 0x01#8] (reads 0x0C#8) ∧ pollEnds refConfig [] (reads 0x00#8) ∧
    (decodeSr3 boundedConfig.layout (reads 0x0C#8).value).pFail = 1#1 ∧
    (decodeSr3 refConfig.layout (reads 0x00#8).value).pFail = 0#1 :=
  ⟨rfl, poll_bounded, poll_immediate, by decide, by decide⟩

theorem witness_PageDataRead :
    ({ booted with cfg := boundedConfig } : State).seq = none ∧
    pollEnds boundedConfig [reads 0x01#8] (reads 0x0C#8) ∧ pollEnds refConfig [] (reads 0x00#8) :=
  ⟨rfl, poll_bounded, poll_immediate⟩

theorem witness_Unprotect :
    booted.seq = none ∧ (decodeSr1 refConfig.layout (reads 0x87#8).value).bp = 0#4 ∧
    (decodeSr1 refConfig.layout (reads 0x08#8).value).bp ≠ 0#4 := by decide

/-- No scan active, and a scan past its bound by one block. -/
theorem witness_QuietRequests :
    booted.seq = none ∧ booted.scanActive = false ∧
    (0x1FFC0#32 : U32).toNat < (0x20000#32 : U32).toNat := by decide

theorem witness_BlockStatusRequest : booted.seq = none ∧ pollEnds booted.cfg [] (reads 0x00#8) :=
  ⟨rfl, poll_immediate⟩

/-- The draws of one chunk read. -/
def chunkRead : ReadDraw := ⟨[], reads 0x00#8, List.replicate 2048 0xA5#8⟩

/-- No chunk at the very end of the device, and one chunk at its last page. -/
theorem witness_StorageRead :
    booted.seq = none ∧ chunkRead.good booted.cfg ∧
    ((0x10000000#32 : U32).toNat % 2048 = 0 ∧ (0#32 : U32).toNat = 2048 * ([] : List ReadDraw).length ∧
      (0x10000000#32 : U32).toNat + (0#32 : U32).toNat ≤ booted.cfg.capacity) ∧
    (0x0FFFF800#32 : U32).toNat % 2048 = 0 ∧ (2048#32 : U32).toNat = 2048 * [chunkRead].length ∧
    (0x0FFFF800#32 : U32).toNat + (2048#32 : U32).toNat ≤ booted.cfg.capacity := by
  refine ⟨rfl, ⟨poll_immediate, List.length_replicate⟩, ?_, ?_⟩ <;> decide

theorem witness_StorageWrite :
    booted.seq = none ∧ (drawsEnding 0x00#8).runs booted.cfg ∧
    (decodeSr3 booted.cfg.layout (drawsEnding 0x00#8).last.value).pFail = 0#1 ∧
    (0x0FFFF800#32 : U32).toNat % 2048 = 0 ∧
    (List.replicate 2048 0xA5#8).length = 2048 * [drawsEnding 0x00#8].length ∧
    (List.replicate 2048 0xA5#8).length < 2 ^ 32 ∧
    (0x0FFFF800#32 : U32).toNat + (List.replicate 2048 0xA5#8).length ≤ booted.cfg.capacity := by
  rw [List.length_replicate]
  exact ⟨rfl, drawsEnding_runs_good, by decide, by decide, by decide, by decide, by decide⟩

/-- One block under `Inclusive`, none under `Exclusive`; the end of the device. -/
theorem witness_StorageErase :
    booted.seq = none ∧ (drawsEnding 0x00#8).runs booted.cfg ∧
    (decodeSr3 booted.cfg.layout (drawsEnding 0x00#8).last.value).eFail = 0#1 ∧
    ((0x10000000#32 : U32).toNat % 131072 = 0 ∧ (0x10000000#32 : U32).toNat ≤ booted.cfg.capacity ∧
      [drawsEnding 0x00#8].length =
        ((0x10000000#32 : U32).toNat - (0x10000000#32 : U32).toNat) / 131072 + 1) ∧
    booted.cfg.eraseRange = .inclusive ∧
    ([] : List WriteDraw).length = ((0#32 : U32).toNat - (0#32 : U32).toNat) / 131072 ∧
    ({ refConfig with eraseRange := .exclusive } : Config).eraseRange = .exclusive :=
  ⟨rfl, drawsEnding_runs_good, by decide, by decide, by decide, by decide, by decide⟩

/-- A bounded poll that is spent. -/
theorem poll_spent : pollSpent boundedConfig [reads 0x01#8, reads 0xFF#8] := by
  unfold pollSpent busySet
  decide

/-- SREAD of two chunks that end at the device's end: the second fails, at its first and at its last transaction, or in
a bounded poll. -/
theorem witness_StorageStopsAtFailure :
    booted.seq = none ∧ chunkRead.good booted.cfg ∧ (0x0FFFF000#32 : U32).toNat % 2048 = 0 ∧
    (4096#32 : U32).toNat % 2048 = 0 ∧ 2048 * [chunkRead].length < (4096#32 : U32).toNat ∧
    (0x0FFFF000#32 : U32).toNat + (4096#32 : U32).toNat ≤ booted.cfg.capacity ∧
    (∀ j, j = 0 ∨ j = 2 → ∃ ds rs, ReadChunkFails booted.cfg (pageAt (fromByteAddress 0x0FFFF000#32) 1 1) ds rs
      (.transport ⟨j⟩)) ∧
    (∃ ds rs, ReadChunkFails boundedConfig (pageAt (fromByteAddress 0x0FFFF000#32) 1 1) ds rs (.pollTimeout 2)) := by
  refine ⟨rfl, ⟨poll_immediate, List.length_replicate⟩, by decide, by decide, by decide, by decide, ?_,
    _, _, .pollTimeout _ poll_spent⟩
  rintro j (rfl | rfl)
  · exact ⟨_, _, .transport chunkRead 0 _ _ ⟨poll_immediate, List.length_replicate⟩ rfl⟩
  · exact ⟨_, _, .transport chunkRead 2 _ _ ⟨poll_immediate, List.length_replicate⟩ rfl⟩

/-- The four ways in which a body that sends `frames` fails, the first transaction among them. -/
theorem body_fails (frames : List (List Byte)) (failed : Byte → Prop) (h : failed 0x0C#8) (e : Err) :
    (∃ ds rs, WriteBodyFails booted.cfg frames failed e ds rs (.transport ⟨0⟩)) ∧
    (∃ ds rs, WriteBodyFails booted.cfg frames failed e ds rs (.writeEnable 0xFD#8)) ∧
    (∃ ds rs, WriteBodyFails boundedConfig frames failed e ds rs (.pollTimeout 2)) ∧
    (∃ ds rs, WriteBodyFails booted.cfg frames failed e ds rs e) :=
  ⟨⟨_, _, .transport (drawsEnding 0x00#8) 0 (sentRecord [0x06#8]) _ drawsEnding_runs_good rfl⟩,
    ⟨_, _, .writeEnable (reads 0xFD#8) (by decide)⟩,
    ⟨_, _, .pollTimeout (reads 0x02#8) _ (by decide) poll_spent⟩,
    ⟨_, _, .reported (drawsEnding 0x0C#8) drawsEnding_runs_failed h⟩⟩

/-- SWRITE of one chunk at the device's last page: its chunk fails, in each of the four ways. -/
theorem witness_StorageStopsAtFailure_write :
    booted.seq = none ∧ (0x0FFFF800#32 : U32).toNat % 2048 = 0 ∧ (List.replicate 2048 0xA5#8).length % 2048 = 0 ∧
    2048 * ([] : List WriteDraw).length < (List.replicate 2048 0xA5#8).length ∧
    (List.replicate 2048 0xA5#8).length < 2 ^ 32 ∧
    (0x0FFFF800#32 : U32).toNat + (List.replicate 2048 0xA5#8).length ≤ booted.cfg.capacity ∧
    ∀ c p chunk, ∃ ds rs, WriteBodyFails booted.cfg (chunkFrames c p chunk)
      (fun v => (decodeSr3 booted.cfg.layout v).pFail = 1#1) (.programFailure p) ds rs (.programFailure p) := by
  rw [List.length_replicate]
  exact ⟨rfl, by decide, by decide, by decide, by decide, by decide,
    fun c p chunk => (body_fails (chunkFrames c p chunk) _ (by decide) _).2.2.2⟩

/-- SERASE: the second of two blocks, at the device's end, under `Inclusive` and under `Exclusive`. -/
theorem witness_StorageStopsAtFailure_erase :
    booted.seq = none ∧ (drawsEnding 0x00#8).runs booted.cfg ∧
    (decodeSr3 booted.cfg.layout (drawsEnding 0x00#8).last.value).eFail = 0#1 ∧
    ((0x0FFE0000#32 : U32).toNat % 131072 = 0 ∧ (0x10000000#32 : U32).toNat % 131072 = 0 ∧
      (0x10000000#32 : U32).toNat ≤ booted.cfg.capacity ∧ booted.cfg.eraseRange = .inclusive ∧
      [drawsEnding 0x00#8].length < ((0x10000000#32 : U32).toNat - (0x0FFE0000#32 : U32).toNat) / 131072 + 1 ∧
      [drawsEnding 0x00#8].length < ((0x10000000#32 : U32).toNat - (0x0FFC0000#32 : U32).toNat) / 131072) ∧
    ∀ c p, ∃ ds rs, WriteBodyFails booted.cfg (blockFrames c p)
      (fun v => (decodeSr3 booted.cfg.layout v).eFail = 1#1) (.eraseFailure p) ds rs (.eraseFailure p) :=
  ⟨rfl, drawsEnding_runs_good, by decide, by decide,
    fun c p => (body_fails (blockFrames c p) _ (by decide) _).2.2.2⟩

/-- A scan at its last block. -/
def scanning : State :=
  { booted with scanActive := true, scanNextPage := 0x1FFC0#32, scanEnd := 0x1FFC0#32 }

theorem witness_ScanNextItem :
    scanning.seq = none ∧ scanning.scanActive = true ∧ scanning.scanNextPage.toNat ≤ scanning.scanEnd.toNat ∧
    pollEnds scanning.cfg [] (reads 0x00#8) := ⟨rfl, rfl, by decide, poll_immediate⟩

/-- The first and the last transaction that can fail. -/
theorem witness_ScanNextError :
    scanning.seq = none ∧ scanning.scanActive = true ∧ scanning.scanNextPage.toNat ≤ scanning.scanEnd.toNat ∧
    pollEnds scanning.cfg [] (reads 0x00#8) ∧ 0 < ([] : List RegRead).length + 4 ∧
    3 < ([] : List RegRead).length + 4 := ⟨rfl, rfl, by decide, poll_immediate, by decide, by decide⟩

theorem witness_TransportError :
    isRequest .wren = true ∧ (answered [.checkWel] .unit (.err ⟨5⟩)).rx = some (.err ⟨5⟩) ∧
    (∀ v, Op.checkWel ≠ .unprotWrite v) ∧
    (answered [.checkWel] .unit (.err ⟨5⟩)).seq = some ⟨[.checkWel], .ret .unit, [], false⟩ :=
  ⟨by decide, rfl, fun v h => (by cases h), rfl⟩

/-- The last span that fits, the first that does not, and each way to miss the alignment. -/
theorem witness_Validation :
    booted.seq = none ∧
    (booted.cfg.capacity < (0x10000001#32 : U32).toNat) ∧
    (booted.cfg.capacity - (2048#32 : U32).toNat < (0x0FFFF801#32 : U32).toNat) ∧
    ((1#32 : U32).toNat + (2048#32 : U32).toNat ≤ booted.cfg.capacity ∧ (1#32 : U32).toNat % 2048 ≠ 0) ∧
    ((0#32 : U32).toNat + (2047#32 : U32).toNat ≤ booted.cfg.capacity ∧ (2047#32 : U32).toNat % 2048 ≠ 0) ∧
    ([0xAA#8].length < 2 ^ 32 ∧ [0xAA#8].length % 2048 ≠ 0 ∧ (0#32 : U32).toNat + [0xAA#8].length ≤ booted.cfg.capacity) ∧
    ((0#32 : U32).toNat < (1#32 : U32).toNat) ∧ (booted.cfg.capacity < (0x10020000#32 : U32).toNat) ∧
    ((1#32 : U32).toNat ≤ (131072#32 : U32).toNat ∧ (131072#32 : U32).toNat ≤ booted.cfg.capacity ∧
      (1#32 : U32).toNat % 131072 ≠ 0) := by decide

/-- BERASE in its poll: the Status3 read is on the bus. -/
def polling : State :=
  { booted with
    cfg := boundedConfig
    phase := .busy
    seq := some { ops := [.poll 0 (.eraseFlag 0#32)], tail := .ret .unit, acc := [], tryItem := false }
    bus := some [0x0F#8, 0xC0#8, 0x00#8] }

/-- `N = 2`, both for a request that begins and for one in its poll; and an unbounded configuration. -/
theorem witness_PollTimeouts :
    booted.seq = none ∧ (∀ x ∈ [reads 0x01#8, reads 0xFF#8], busySet boundedConfig x.value) ∧
    boundedConfig.pollLimit = .limit [reads 0x01#8, reads 0xFF#8].length ∧
    isRequest (.berase 0#32) = true ∧ polling.bus = some [polling.cfg.opc.readReg, 0xC0#8, 0x00#8] ∧
    polling.cfg = boundedConfig ∧ polling.seq.isSome = true ∧
    (view State.phase (exec (.berase 0#32) booted) = some .busy ∧ booted.cfg.pollLimit = .unbounded) := by
  unfold busySet
  decide

theorem witness_PollNeverEnds :
    booted.seq = none ∧ booted.cfg.pollLimit = .unbounded ∧ (∀ x ∈ [reads 0x01#8], busySet booted.cfg x.value) ∧
    polling.phase = .busy ∧ polling.bus = some [refConfig.opc.readReg, 0xC0#8, 0x00#8] ∧
    isRequest (.berase 0#32) = true := by
  unfold busySet
  decide

theorem witness_StorageView :
    (∀ off, Err.badRequest 0#32 ≠ .notAligned off) ∧ ∀ off, Err.badRequest 0#32 ≠ .outOfBounds off :=
  ⟨fun _ h => (by cases h), fun _ h => (by cases h)⟩

/-- A frame for the device, and a descriptor for the encoder. -/
theorem witness_StepRunsDecoded :
    booted.cfg.valid = true ∧ decodeWire booted.cfg [0x06#8] = .ok .writeEnableWire ∧
    ({ booted with bus := some [0x06#8] } : State).bus = some [0x06#8] ∧
    decodeRequest (plainRequest 0x01#8) = .ok .reset ∧ booted.bus = none ∧ booted.resetReq = false ∧
    ({ booted with phase := .busy } : State).phase = .busy := by decide

/-- An expansion's later request after an `Ok` and after an `Err`. -/
theorem witness_HostTurn :
    booted.cfg.valid = true ∧ booted.bus = none ∧ booted.resetReq = false ∧ booted.phase = .idle ∧
    booted.script = [] ∧ lastFailed booted = false ∧
    lastFailed { booted with result := latchOf (.err (.notAligned 1#32)) } = true ∧
    assemble refConfig (.program 3#32 0#32 (.bytes [0xAA#8])) =
      [⟨⟨0x08#8, 0x00#8, 0x00#8, 0x00#8, 0#32, 1#32, [0xAA#8]⟩, false⟩,
       ⟨⟨0x0A#8, 0x00#8, 0x00#8, 0x00#8, 3#32, 0#32, []⟩, true⟩] := by decide

/-- The second request of an expansion, and a request of its own after it. -/
def laterItems : List HostItem := [⟨plainRequest 0x0A#8, true⟩, ⟨plainRequest 0x01#8, false⟩]

/-- A reset that is asked for in `Busy`, in `Idle` after an `Err`, and in `Idle` after an `Ok`. -/
theorem witness_EncoderReset :
    booted.cfg.valid = true ∧ ({ booted with phase := .busy, resetReq := true } : State).bus = none ∧
    ({ booted with phase := .busy, resetReq := true } : State).resetReq = true ∧
    lastFailed { booted with result := latchOf (.err (.notAligned 1#32)) } = true ∧
    booted.phase = .idle ∧ lastFailed { booted with result := latchOf (.ok .unit) } = false := by decide

/-- R126, R330: after a reset the host submits no later request of an expansion that an `Err` or the reset cut short,
and goes on with one whose last request ended in `Ok`. -/
theorem test_reset_cuts_expansion :
    view State.script (step { booted with phase := .busy, resetReq := true, script := laterItems }) =
      some [⟨plainRequest 0x01#8, false⟩] ∧
    view State.script (step { booted with
      result := latchOf (.err (.notAligned 1#32)), resetReq := true, script := laterItems }) =
      some [⟨plainRequest 0x01#8, false⟩] ∧
    view State.script (step { booted with
      result := latchOf (.ok .unit), resetReq := true, script := laterItems }) = some laterItems := by decide

/-- A step of the device that answers. -/
theorem witness_ConfigurationFixed :
    (view State.bus (exec .writeEnableWire booted)).isSome = true ∧
    (view State.bus (step { booted with bus := some [0x06#8] })).isSome = true := by decide

theorem witness_RequestFrame :
    isRequest .wren = true ∧ (view State.bus (exec .wren booted)).isSome = true ∧
    (view State.bus (exec .scannx scanning)).isSome = true := by decide

theorem witness_DeviceIrrelevant : isRequest .unprot = true := by decide

/-- A write-enabled device about to erase, with a byte in its array. -/
def erasing : State :=
  { bootedWith 0x02#8 with
    bus := some [0xD8#8, 0x00#8, 0x00#8, 0x00#8]
    dev := { (bootedWith 0x02#8).dev with array := [(5, 0x01#8)] } }

theorem witness_MemoryInvariant : deviceMemoryOk erasing ∧ view (fun t => t.dev.array) (step erasing) = some [] := by
  refine ⟨⟨?_, ?_, Memory.wf_nil, fun x hx => ?_⟩, by decide⟩
  · unfold Memory.wf
    decide
  · unfold Memory.below
    decide
  · cases hx

/-- SCANNX begun at the scan's last block moves its cursor to the array's end. -/
theorem witness_LatchAndScannerInvariant :
    let s : State := { scanning with phase := .busy, desc := plainRequest 0x31#8 }
    scannerOk s ∧ latchOk s ∧ view State.scanNextPage (step s) = some 0x20000#32 := by
  refine ⟨fun _ => by decide, ?_, by decide⟩
  unfold latchOk
  decide

/-- A register read's answer about to be consumed. -/
def consuming : State :=
  { answered [.readReg 0xA0#8] .register (.ok [0xFF#8, 0xFF#8, 0x04#8]) with
    desc := { plainRequest 0x05#8 with sel := 0xA0#8 } }

theorem consuming_ok : sequencerOk consuming := by
  refine ⟨rfl, ⟨_, rfl⟩, ?_, ?_, _, _, rfl, .inr ⟨rfl, _, rfl, ?_⟩⟩
  · intro o ho
    rw [List.mem_singleton.mp ho]
    exact ⟨rfl, rfl⟩
  · intro n hn
    cases hn
    rfl
  · intro bs h
    cases h
    rfl

theorem witness_SequencerInvariant :
    sequencerOk consuming ∧ view State.phase (step consuming) = some .idle := ⟨consuming_ok, by decide⟩

theorem witness_NeverStops :
    sequencerOk consuming ∧ sequencerOk State.reset ∧ State.reset.cfg.valid = true ∧
    State.reset.cfg.device = .oracle := ⟨consuming_ok, ⟨rfl, rfl⟩, by decide, rfl⟩

end Sys2Proof.Tests
end

section
/-! PROOFS of 00_scope: the geometry of a configuration (O3), a wire command as one transaction with the oracle (O17),
and a request's turn under another device state (O54). -/

namespace Sys2Proof.Machine

open Host

/-! ## Which configurations have a meaning -/

/-- The check of R7, with `PAGE_SIZE` written out. -/
theorem geometryOk_iff (c : Config) :
    c.geometryOk = true ↔ 64 ≤ c.pageCount ∧ c.pageCount % 64 = 0 ∧ c.pageCount * 2048 ≤ 2 ^ 32 - 1 := by
  simp only [Config.geometryOk, Bool.and_eq_true, decide_eq_true_eq, and_assoc]
  rfl

theorem step_of_not_valid {s : State} (h : ¬s.cfg.valid = true) : step s = .refused .badConfig := by
  simp only [step, if_neg h]

/-- Settles O3: R7's check is one of the conjuncts of `Config.valid`, which `step` asks first. -/
theorem geometryRefused : Obligations.GeometryRefused := by
  unfold Obligations.GeometryRefused
  refine ⟨fun c hv => ?_, fun s hbad => ?_⟩
  · obtain ⟨hmin, hblocks, hmax⟩ := (geometryOk_iff c).mp (valid_parts hv).1
    have hcap : c.capacity < 2 ^ 32 := by
      simp only [Config.capacity, pageSize]
      omega
    exact ⟨hmin, hblocks, hmax, hcap⟩
  · exact step_of_not_valid fun hv => hbad ((geometryOk_iff s.cfg).mp (valid_parts hv).1)

/-! ## A wire command is one transaction (R11, R36) -/

/-- The segments of the window that a wire command is: its frame, or its byte alone for the two constants of the
Command Table without a frame (R154, R155; log 16). -/
def windowSegs (c : Config) : Instr → List Seg
  | .releasePowerDownWire => loneFrame (releaseOpcode c)
  | .softwareResetWire => loneFrame (softwareResetOpcode c)
  | i => frame c i

/-- A byte alone keeps as much as no frame does: nothing. -/
theorem keptLength_windowSegs (c : Config) (i : Instr) : keptLength (windowSegs c i) = keptLength (frame c i) := by
  cases i <;> rfl

/-- A wire command is spelled as the stream of its window and meant as its transaction. -/
theorem wire_window {i : Instr} (h : isRequest i = false) :
    (∀ c, encode c i = .stream (streamOf c.rxFill (windowSegs c i))) ∧
      ∀ s : State, exec i s = transact (windowSegs s.cfg i) s := by
  cases i with
  | resetWire | jedecWire | readRegWire | writeRegWire | writeEnableWire | writeDisableWire | blockEraseWire
  | loadProgramDataWire | randomLoadProgramDataWire | programExecuteWire | pageDataReadWire | readDataWire
  | powerDownWire | releasePowerDownWire | softwareResetWire => exact ⟨fun _ => rfl, fun _ => rfl⟩
  | _ => cases h

@[simp] theorem keptLength_cons (seg : Seg) (segs : List Seg) :
    keptLength (seg :: segs) = seg.keeps + keptLength segs := rfl

@[simp] theorem streamOf_cons (fill : Byte) (seg : Seg) (segs : List Seg) :
    streamOf fill (seg :: segs) = seg.sent fill ++ streamOf fill segs := rfl

/-- An answer as long as the window gives every segment what it keeps (R11). -/
theorem length_keptOf {fill : Byte} {segs : List Seg} {m : List Byte} (h : m.length = (streamOf fill segs).length) :
    (keptOf segs m).length = keptLength segs := by
  induction segs generalizing m with
  | nil => rfl
  | cons seg segs ih =>
    rw [streamOf_cons, List.length_append] at h
    have hrest : (m.drop (seg.sent fill).length).length = (streamOf fill segs).length := by
      rw [List.length_drop]
      omega
    have hkept := ih hrest
    cases seg with
    | w bytes => simpa [keptOf, Seg.keeps, Seg.sent] using hkept
    | r n =>
      simp only [Seg.sent, List.length_replicate] at h hkept
      simp only [keptOf, keptLength_cons, Seg.keeps, List.length_append, List.length_take, hkept]
      omega
    | x bytes =>
      simp only [Seg.sent] at h hkept
      simp only [keptOf, keptLength_cons, Seg.keeps, List.length_append, List.length_take, hkept]
      omega

/-- What the encoder keeps of the oracle's answer: a failure, or what the segments keep (R11, R12). -/
theorem keepResult_oracleAnswer (fill : Byte) (segs : List Seg) (count : Nat) :
    (∃ t, keepResult segs (oracleAnswer count (streamOf fill segs).length) = .err t) ∨
    ∃ kept, keepResult segs (oracleAnswer count (streamOf fill segs).length) = .ok kept ∧
      kept.length = keptLength segs := by
  rcases oracleAnswer_cases count (streamOf fill segs).length with ⟨t, ht⟩ | ⟨m, hm, hlen⟩
  · exact .inl ⟨t, by rw [ht]; rfl⟩
  · exact .inr ⟨keptOf segs m, by rw [hm]; rfl, length_keptOf hlen⟩

/-- Settles O17: a wire command is the transaction of its window, which the oracle always completes. -/
theorem oracleAnswers : Obligations.OracleAnswers := by
  unfold Obligations.OracleAnswers
  intro i s hwire horacle
  obtain ⟨hencode, hexec⟩ := wire_window hwire
  refine ⟨_, _, _, hencode s.cfg, (hexec s).trans (transact_oracle horacle _), rfl, ?_⟩
  rw [← keptLength_windowSegs]
  exact keepResult_oracleAnswer _ _ _

/-! ## A request's turn does not read the device (R12) -/

/-- An outcome with another device in its next state. -/
def replaceDevice (d : Device) : Step → Step
  | .next t => .next { t with dev := d }
  | .fault f => .fault f
  | .refused r => .refused r

/-- A move that neither reads nor changes the device: under another device state it is the same, that state apart. -/
def DeviceBlind (f : State → Step) : Prop :=
  ∀ (s : State) (d : Device), f { s with dev := d } = replaceDevice d (f s)

theorem take_deviceBlind (q : Seq) (ops : List Op) : DeviceBlind (·.take q ops) := by
  intro s d
  cases ops <;> rfl

theorem deliver_deviceBlind (acc : List Byte) (r : Ret) : DeviceBlind (·.deliver acc r) := by
  intro s d
  simp only [State.deliver]
  cases retPayload s.cfg acc r <;> rfl

/-! The loops' heads (R263–R265). -/

theorem readHead_deviceBlind (q : Seq) (n : Nat) : DeviceBlind (·.readHead q n) := by
  intro s d
  simp only [State.readHead_eq]
  split <;> rfl

theorem writeHead_deviceBlind (q : Seq) (data : List Byte) (n : Nat) : DeviceBlind (·.writeHead q data n) := by
  intro s d
  simp only [State.writeHead_eq]
  split <;> rfl

theorem eraseHead_deviceBlind (q : Seq) (g : BlockGen) : DeviceBlind (·.eraseHead q g) := by
  intro s d
  simp only [State.eraseHead]
  split <;> rfl

theorem eraseUpToHead_deviceBlind (q : Seq) (p tp : U32) : DeviceBlind (·.eraseUpToHead q p tp) := by
  intro s d
  simp only [State.eraseUpToHead_eq]
  split <;> rfl

/-! The sequencer (R34). -/

theorem iterate_deviceBlind (data : List Byte) (q : Seq) : DeviceBlind (·.iterate data q) := by
  intro s d
  simp only [State.iterate]
  cases q.tail with
  | ret r => exact deliver_deviceBlind _ r s d
  | readLoop n => exact readHead_deviceBlind q n { s with k := s.k + 1#32 } d
  | writeLoop n => exact writeHead_deviceBlind q data n { s with k := s.k + 1#32 } d
  | eraseBlocks g => exact eraseHead_deviceBlind q g { s with k := s.k + 1#32 } d
  | eraseUpTo p tp => exact eraseUpToHead_deviceBlind q p tp { s with k := s.k + 1#32 } d

theorem advance_deviceBlind (data : List Byte) (q : Seq) (rest : List Op) : DeviceBlind (·.advance data q rest) := by
  intro s d
  cases rest with
  | nil => exact iterate_deviceBlind data q s d
  | cons op rest => rfl

theorem resume_deviceBlind (data : List Byte) (q : Seq) (r : TxnResult) : DeviceBlind (·.resume data q r) := by
  intro s d
  simp only [State.resume]
  cases q.ops with
  | nil => rfl
  | cons op rest =>
    cases hj : judge s.cfg op r with
    | proceed gathered => simpa only [hj] using advance_deviceBlind data _ rest s d
    | replace op' => simp only [hj]; rfl
    | raise e => simp only [hj]; rfl
    | short => simp only [hj]; rfl

/-- A request's turn is blind to the device when its start is. -/
theorem runRequest_deviceBlind {start : State → Step} (h : DeviceBlind start) (data : List Byte) :
    DeviceBlind (runRequest data start) := by
  intro s d
  rcases Option.eq_none_or_eq_some s.seq with hq | ⟨q, hq⟩
  · rw [runRequest_start hq, runRequest_start (s := { s with dev := d }) hq, h s d]
  · rcases Option.eq_none_or_eq_some s.rx with hr | ⟨r, hr⟩
    · simp only [runRequest, hq, hr, replaceDevice]
    · rw [runRequest_resume hq hr, runRequest_resume (s := { s with dev := d }) hq hr]
      exact resume_deviceBlind data q r s d

/-! The starts of the requests. -/

/-- The transactions may depend on the configuration. -/
theorem startOps_deviceBlind (ops : Config → List Op) (r : Ret) : DeviceBlind fun s => startOps (ops s.cfg) r s :=
  fun s d => take_deviceBlind _ (ops s.cfg) s d

theorem startRead_deviceBlind (off len : U32) : DeviceBlind (startRead off len) := by
  intro s d
  simp only [startRead]
  cases checkRw s.cfg off len with
  | some e => rfl
  | none => exact readHead_deviceBlind _ _ { s with cur := fromByteAddress off, k := 0#32 } d

theorem startWrite_deviceBlind (off : U32) (data : List Byte) : DeviceBlind (startWrite off data) := by
  intro s d
  simp only [startWrite]
  cases checkRw s.cfg off (BitVec.ofNat 32 data.length) with
  | some e => rfl
  | none => exact writeHead_deviceBlind _ data _ { s with cur := fromByteAddress off, k := 0#32 } d

theorem startErase_deviceBlind (fromOff toOff : U32) : DeviceBlind (startErase fromOff toOff) := by
  intro s d
  simp only [startErase]
  cases checkErase s.cfg fromOff toOff with
  | some e => rfl
  | none =>
    cases s.cfg.eraseRange with
    | inclusive => exact eraseHead_deviceBlind _ _ { s with cur := fromByteAddress fromOff, k := 0#32 } d
    | exclusive => exact eraseUpToHead_deviceBlind _ _ _ { s with cur := fromByteAddress fromOff, k := 0#32 } d

theorem startScanNext_deviceBlind : DeviceBlind startScanNext := by
  intro s d
  simp only [startScanNext]
  split <;> rfl

/-- Every request is a `runRequest` whose start is blind to the device. -/
theorem exec_request_deviceBlind {i : Instr} (h : isRequest i = true) : DeviceBlind (exec i) := by
  cases i with
  | reset | jedec | wren | wrdi | rdreg | wrreg | berase | pexec | pread | rdata | unprot | pwrdn | bstat =>
    exact runRequest_deviceBlind (startOps_deviceBlind (fun _ => _) _) _
  | pload col data => exact runRequest_deviceBlind (startOps_deviceBlind (loadBody · col data) .unit) data
  | ploadr col data => exact runRequest_deviceBlind (startOps_deviceBlind (randomLoadBody · col data) .unit) data
  | sread off len => exact runRequest_deviceBlind (startRead_deviceBlind off len) []
  | swrite off data => exact runRequest_deviceBlind (startWrite_deviceBlind off data) data
  | serase fromOff toOff => exact runRequest_deviceBlind (startErase_deviceBlind fromOff toOff) []
  | scap => exact runRequest_deviceBlind (fun _ _ => rfl) []
  | scanst => exact runRequest_deviceBlind (fun _ _ => rfl) []
  | scannx => exact runRequest_deviceBlind startScanNext_deviceBlind []
  | _ => cases h

/-- Settles O54: the turn of each request goes through the sequencer, and no move of the sequencer reads the
device. -/
theorem deviceIrrelevant : Obligations.DeviceIrrelevant := by
  unfold Obligations.DeviceIrrelevant
  intro i s d hreq
  rw [exec_request_deviceBlind hreq s d]
  cases exec i s <;> rfl

end Sys2Proof.Machine
end

section
/-! PROOFS of 10_state: which instruction a step runs (O48), the host's turn (O49), the state after reset (O50, O58),
the configuration (O52), the frame of a request's turn (O53), and the invariants of the latch and the scanner (O56) and
of the sequencer (O57). -/

namespace Sys2Proof.Machine

open Host

/-! ## Which agent moves -/

theorem step_of_bus {s : State} {sent : List Byte} (hv : s.cfg.valid = true) (hb : s.bus = some sent) :
    step s = deviceTurn sent s := by
  simp only [step_of_valid hv, agentTurn, hb]

theorem step_of_busy {s : State} (hv : s.cfg.valid = true) (hb : s.bus = none) (hr : s.resetReq = false)
    (hp : s.phase = .busy) : step s = encoderTurn s := by
  simp only [step_of_valid hv, agentTurn, hb, hr, hp, Bool.false_eq_true, if_false]

theorem step_of_idle {s : State} (hv : s.cfg.valid = true) (hb : s.bus = none) (hr : s.resetReq = false)
    (hp : s.phase = .idle) : step s = hostTurn s := by
  simp only [step_of_valid hv, agentTurn, hb, hr, hp, Bool.false_eq_true, if_false]

/-- Settles O48: the turn of the agent that moves is the meaning of what it decodes. -/
theorem stepRunsDecoded : Obligations.StepRunsDecoded := by
  unfold Obligations.StepRunsDecoded
  intro s i hv
  refine ⟨fun sent hb hd => ?_, fun hb hr hp hd => ?_⟩
  · rw [step_of_bus hv hb]
    simp only [deviceTurn, hd]
  · rw [step_of_busy hv hb hr hp]
    simp only [encoderTurn, hd]

/-! ## The host's turn (R40, R126) -/

theorem hostTurn_of_nil {s : State} (h : s.script = []) : hostTurn s = .next s := by
  have hs : hostScript s = [] := by
    simp only [hostScript, h, dropChained, List.dropWhile_nil, ite_self]
  simp only [hostTurn, hs]
  rw [← h]

/-- The host submits the head of its script, unless R126 passes it over. -/
theorem hostTurn_of_submits {s : State} {item : HostItem} {rest : List HostItem} (h : s.script = item :: rest)
    (hsub : item.chained = false ∨ lastFailed s = false) :
    hostTurn s = .next ({ s with script := rest }.submit item.desc) := by
  have hs : hostScript s = item :: rest := by
    unfold hostScript
    split
    · next hfail =>
      rw [h]
      exact dropChained_of_unchained (hsub.resolve_right (by simp [hfail]))
    · exact h
  simp only [hostTurn, hs]

/-- A later request of an expansion is passed over after an `Err` (R126). -/
theorem hostTurn_of_skips {s : State} {item : HostItem} {rest : List HostItem} (h : s.script = item :: rest)
    (hc : item.chained = true) (hf : lastFailed s = true) : hostTurn s = hostTurn { s with script := rest } := by
  have hs : hostScript s = hostScript { s with script := rest } := by
    have hf' : lastFailed { s with script := rest } = true := hf
    simp only [hostScript, hf, hf', if_true, h, dropChained, List.dropWhile_cons, hc]
  simp only [hostTurn, hs]

/-- Settles O49: in `Idle` a step is the host's turn, on the script as R126 leaves it. -/
theorem step_hostTurn : Obligations.HostTurn := by
  unfold Obligations.HostTurn
  intro s hv hb hr hp
  refine ⟨fun hnil => ?_, fun item rest hs => ⟨fun hsub => ?_, fun hc hf => ?_⟩⟩
  · rw [step_of_idle hv hb hr hp, hostTurn_of_nil hnil]
  · rw [step_of_idle hv hb hr hp, hostTurn_of_submits hs hsub]
    rfl
  · rw [step_of_idle hv hb hr hp, hostTurn_of_skips hs hc hf]
    exact (step_of_idle (s := { s with script := rest }) hv hb hr hp).symm

/-! ## Reset (R60) -/

/-- Settles O50: the registers are those of `State.reset`, and with an empty script the encoder waits. -/
theorem resetState : Obligations.ResetState := by
  unfold Obligations.ResetState
  have hwaits : step State.reset = .next State.reset :=
    (step_of_idle (by decide) rfl rfl rfl).trans (hostTurn_of_nil rfl)
  exact ⟨rfl, rfl, rfl, rfl, rfl, rfl, rfl, rfl, rfl, rfl, rfl, hwaits⟩

/-- Settles O58: the memories list nothing, no scan is active, the latch holds 0xFF and no data, and nothing is in
flight. -/
theorem invariantsAtReset : Obligations.InvariantsAtReset := by
  unfold Obligations.InvariantsAtReset
  refine ⟨⟨State.reset_array_wf, ?_, State.reset_buf_wf, ?_⟩, ?_, ⟨.inr rfl, fun _ => rfl⟩, rfl, rfl⟩
  · exact fun _ hx => nomatch hx
  · exact fun _ hx => nomatch hx
  · exact fun hactive => nomatch hactive

/-! ## The operations a request is made of -/

/-- A column of a request fits the column bytes of the wire (R124, R176). -/
theorem fitsColumn_wireCol (c : Config) (col : U32) : fitsColumn c (wireCol c col) = true := by
  cases hw : c.colWidth <;> simp only [fitsColumn, wireCol, Config.colBytes, hw, decide_eq_true_eq] <;> bv_omega

@[simp] theorem opOk_send (c : Config) (cmd : Instr) :
    opOk c (.send cmd) ↔ framed cmd = true ∧ cmd.wf c = true := Iff.rfl

/-- The reads, and the write of Status1, are framed and fit the wire. -/
theorem opOk_of_ne_send (c : Config) {op : Op} (h : ∀ cmd, op ≠ .send cmd) : opOk c op := by
  cases op with
  | send cmd => exact absurd rfl (h cmd)
  | readData col len => exact ⟨rfl, fitsColumn_wireCol c col⟩
  | _ => exact ⟨rfl, rfl⟩

theorem eraseBody_ok (c : Config) (p : U32) : ∀ o ∈ eraseBody p, opOk c o := by
  simp [eraseBody, weSeq, framed, Instr.wf, opOk_of_ne_send]

theorem loadBody_ok (c : Config) (col : U32) (data : List Byte) : ∀ o ∈ loadBody c col data, opOk c o := by
  simp [loadBody, weSeq, framed, Instr.wf, opOk_of_ne_send, fitsColumn_wireCol]

theorem randomLoadBody_ok (c : Config) (col : U32) (data : List Byte) :
    ∀ o ∈ randomLoadBody c col data, opOk c o := by
  simp [randomLoadBody, weSeq, framed, Instr.wf, opOk_of_ne_send, fitsColumn_wireCol]

theorem programBody_ok (c : Config) (p : U32) : ∀ o ∈ programBody p, opOk c o := by
  simp [programBody, framed, Instr.wf, opOk_of_ne_send]

theorem pageReadBody_ok (c : Config) (p : U32) : ∀ o ∈ pageReadBody p, opOk c o := by
  simp [pageReadBody, framed, Instr.wf, opOk_of_ne_send]

/-- A page read and what is then read from the buffer: the bodies of R263, R266 and R291. -/
theorem pageReadBody_append_ok (c : Config) (p : U32) {reads : List Op} (h : ∀ o ∈ reads, ∀ cmd, o ≠ .send cmd) :
    ∀ o ∈ pageReadBody p ++ reads, opOk c o :=
  List.forall_mem_append.mpr ⟨pageReadBody_ok c p, fun o ho => opOk_of_ne_send c (h o ho)⟩

theorem writeChunk_ok (c : Config) (p : U32) (chunk : List Byte) : ∀ o ∈ writeChunk c p chunk, opOk c o :=
  List.forall_mem_append.mpr ⟨loadBody_ok c _ _, programBody_ok c p⟩

/-! ## What a verdict may be -/

/-- The verdict on a register read is the one on its value, or the answer is short. -/
theorem onRegister_cases (bs : List Byte) (f : Byte → Verdict) :
    (∃ v, onRegister bs f = f v) ∨ onRegister bs f = .short := by
  unfold onRegister
  split
  · next v => exact .inl ⟨v, rfl⟩
  · exact .inr rfl

/-- What a verdict on `op` may be: a transaction that passes gathers as many bytes as `gathers` says, and what takes
another's place fits the wire and gathers as much. -/
def verdictFits (c : Config) (op : Op) : Verdict → Prop
  | .proceed g => g.length = gathers op
  | .replace op' => opOk c op' ∧ gathers op' = gathers op
  | .raise _ => True
  | .short => True

theorem onRegister_fits {c : Config} {op : Op} {f : Byte → Verdict} (h : ∀ v, verdictFits c op (f v))
    (bs : List Byte) : verdictFits c op (onRegister bs f) := by
  rcases onRegister_cases bs f with ⟨v, hv⟩ | hs
  · rw [hv]
    exact h v
  · rw [hs]
    trivial

theorem checkPoll_fits (c : Config) (reads : Nat) (check : PollCheck) (v : Byte) :
    verdictFits c (.poll reads check) (checkPoll c v check) := by
  cases check with
  | nothing => rfl
  | eraseFlag p | programFlag p =>
    simp only [checkPoll]
    split
    · trivial
    · rfl

theorem pollStep_fits (c : Config) (reads : Nat) (check : PollCheck) (v : Byte) :
    verdictFits c (.poll reads check) (pollStep c reads check v) := by
  unfold pollStep
  split
  · exact checkPoll_fits c reads check v
  · split
    · trivial
    · exact ⟨opOk_of_ne_send c nofun, rfl⟩

theorem judge_fits (c : Config) (op : Op) (r : TxnResult) : verdictFits c op (judge c op r) := by
  cases r with
  | err t =>
    cases op with
    | unprotWrite val => rfl
    | _ => trivial
  | ok bs =>
    cases op with
    | send cmd | unprotWrite val => rfl
    | readReg sel =>
      refine onRegister_fits (fun v => ?_) bs
      rfl
    | checkWel | checkWelClear | unprotVerify =>
      refine onRegister_fits (fun v => ?_) bs
      split
      · trivial
      · rfl
    | poll reads check => exact onRegister_fits (pollStep_fits c reads check) bs
    | readJedec | readData col len =>
      simp only [judge, judgeOk]
      split
      · assumption
      · trivial
    | unprotRead =>
      refine onRegister_fits (fun v => ?_) bs
      exact ⟨opOk_of_ne_send c nofun, rfl⟩

theorem judge_proceed {c : Config} {op : Op} {r : TxnResult} {g : List Byte} (h : judge c op r = .proceed g) :
    g.length = gathers op := by
  have hfits := judge_fits c op r
  rwa [h] at hfits

theorem judge_replace {c : Config} {op op' : Op} {r : TxnResult} (h : judge c op r = .replace op') :
    opOk c op' ∧ gathers op' = gathers op := by
  have hfits := judge_fits c op r
  rwa [h] at hfits

/-! ## A sequencer that yields what its `return` needs (R34) -/

/-- The part of `inFlight` about the sequencer alone. -/
def seqGood (c : Config) (q : Seq) : Prop :=
  (∀ o ∈ q.ops, opOk c o) ∧ ∀ n, needs q.tail = some n → q.acc.length + (q.ops.map gathers).sum = n

/-- A `return` begun with all its transactions to make. -/
theorem seqGood_ret {c : Config} {ops : List Op} {r : Ret} {tryItem : Bool} (hops : ∀ o ∈ ops, opOk c o)
    (hneeds : needs (.ret r) = none ∨ needs (.ret r) = some (ops.map gathers).sum) :
    seqGood c { ops := ops, tail := .ret r, acc := [], tryItem := tryItem } := by
  refine ⟨hops, fun n hn => ?_⟩
  rcases hneeds with hnone | hsum
  · cases hnone.symm.trans hn
  · exact (Nat.zero_add _).trans (Option.some.inj (hsum.symm.trans hn))

/-- A loop's iteration: its `return` takes any number of bytes. -/
theorem seqGood_loop {c : Config} {q : Seq} (hops : ∀ o ∈ q.ops, opOk c o) (hneeds : needs q.tail = none) :
    seqGood c q :=
  ⟨hops, fun n hn => by rw [hneeds] at hn; cases hn⟩

/-- A passed transaction leaves the rest of the iteration, with its bytes gathered. -/
theorem seqGood_proceed {c : Config} {q : Seq} {op : Op} {rest : List Op} {g : List Byte} (hq : seqGood c q)
    (hops : q.ops = op :: rest) (hg : g.length = gathers op) :
    seqGood c { q with ops := rest, acc := q.acc ++ g } := by
  obtain ⟨hok, hneeds⟩ := hq
  rw [hops] at hok hneeds
  refine ⟨fun o ho => hok o (List.mem_cons_of_mem op ho), fun n hn => ?_⟩
  have hsum := hneeds n hn
  simp only [List.map_cons, List.sum_cons] at hsum
  simp only [List.length_append, hg]
  omega

/-- A transaction that takes the head's place and gathers as much. -/
theorem seqGood_replace {c : Config} {q : Seq} {op op' : Op} {rest : List Op} (hq : seqGood c q)
    (hops : q.ops = op :: rest) (hok' : opOk c op') (hg : gathers op' = gathers op) :
    seqGood c { q with ops := op' :: rest } := by
  obtain ⟨hok, hneeds⟩ := hq
  rw [hops] at hok hneeds
  refine ⟨List.forall_mem_cons.mpr ⟨hok', fun o ho => hok o (List.mem_cons_of_mem op ho)⟩, fun n hn => ?_⟩
  simpa only [List.map_cons, hg] using hneeds n hn

/-! ## What a request's turn can do

A turn may first move registers of the request (`Prepares`), and then the request ends or a transaction is driven
(`Ends`). -/

/-- How a turn that began in `s` ends: with the request's result, or with a transaction on the bus, whose sequencer
yields what its `return` needs when the one before did (`good`). -/
inductive Ends (good : Prop) (s : State) : State → Prop
  | finished (r : Result) : Ends good s (s.finish r)
  | driven (q : Seq) (op : Op) (rest : List Op) (h : good → seqGood s.cfg { q with ops := op :: rest }) :
      Ends good s (s.issue q op rest)

/-- The registers that the turn of request `i` may move before it ends: the cursor and the chunk index in a loop (R35,
R263–R265), the scanner's state in the scanner requests (R38, R290, R291). -/
inductive Prepares (i : Instr) (s : State) : State → Prop
  | nothing : Prepares i s s
  | loopBegun (cur k : U32) (h : (∃ a b, i = .sread a b) ∨ (∃ a b, i = .swrite a b) ∨ ∃ a b, i = .serase a b) :
      Prepares i s { s with cur := cur, k := k }
  | loopGoesOn (cur k : U32) (q : Seq) (hq : s.seq = some q) (h : ∀ r, q.tail ≠ .ret r) :
      Prepares i s { s with cur := cur, k := k }
  | scanBegun (h : i = .scanst) :
      Prepares i s { s with scanActive := true, scanNextPage := 0#32,
                            scanEnd := BitVec.ofNat 32 (s.cfg.pageCount - pagesPerBlock) }
  | scanEnded (h : i = .scannx) : Prepares i s { s with scanActive := false }
  | scanMoves (h : i = .scannx) (active : s.scanActive = true) (le : s.scanNextPage.toNat ≤ s.scanEnd.toNat) :
      Prepares i s { s with scanNextPage := s.scanNextPage + 64#32 }

theorem Ends.weaken {good good' : Prop} {s t : State} (h : Ends good s t) (hg : good' → good) : Ends good' s t := by
  cases h with
  | finished r => exact .finished r
  | driven q op rest hq => exact .driven q op rest fun h => hq (hg h)

theorem Ends.raised (good : Prop) (s : State) (b : Bool) (e : Err) : Ends good s (s.raise b e) := .finished _

theorem take_ends {s t : State} {q : Seq} {ops : List Op} (h : s.take q ops = .next t)
    (hq : seqGood s.cfg { q with ops := ops }) : Ends True s t := by
  obtain ⟨op, rest, rfl, rfl⟩ := State.take_next h
  exact .driven q op rest fun _ => hq

theorem deliver_ends {s t : State} {acc : List Byte} {r : Ret} (h : s.deliver acc r = .next t) : Ends True s t := by
  obtain ⟨p, -, rfl⟩ := State.deliver_next h
  exact .finished _

/-! The loops' heads (R263–R265): only the cursor moves. -/

theorem readHead_ends {s t : State} {q : Seq} {n : Nat} (h : s.readHead q n = .next t) (hq : needs q.tail = none) :
    ∃ cur, Ends True { s with cur := cur } t := by
  unfold State.readHead at h
  split at h
  · exact ⟨_, take_ends h (seqGood_loop (pageReadBody_append_ok _ _ (by simp)) hq)⟩
  · exact ⟨s.cur, deliver_ends h⟩

theorem writeHead_ends {s t : State} {q : Seq} {data : List Byte} {n : Nat} (h : s.writeHead q data n = .next t)
    (hq : needs q.tail = none) : ∃ cur, Ends True { s with cur := cur } t := by
  unfold State.writeHead at h
  split at h
  · exact ⟨_, take_ends h (seqGood_loop (writeChunk_ok _ _ _) hq)⟩
  · exact ⟨s.cur, deliver_ends h⟩

theorem eraseHead_ends {s t : State} {q : Seq} {g : BlockGen} (h : s.eraseHead q g = .next t) :
    ∃ cur, Ends True { s with cur := cur } t := by
  unfold State.eraseHead at h
  split at h
  · exact ⟨_, take_ends h (seqGood_loop (eraseBody_ok _ _) rfl)⟩
  · exact ⟨s.cur, deliver_ends h⟩

theorem eraseUpToHead_ends {s t : State} {q : Seq} {p tp : U32} (h : s.eraseUpToHead q p tp = .next t) :
    ∃ cur, Ends True { s with cur := cur } t := by
  unfold State.eraseUpToHead at h
  split at h
  · exact ⟨_, take_ends h (seqGood_loop (eraseBody_ok _ _) rfl)⟩
  · exact ⟨s.cur, deliver_ends h⟩

/-! The sequencer (R34). -/

/-- A turn of request `i`: registers move, and then it ends. -/
def TurnOf (i : Instr) (good : Prop) (s t : State) : Prop := ∃ s', Prepares i s s' ∧ Ends good s' t

theorem TurnOf.of_ends {i : Instr} {good : Prop} {s t : State} (h : Ends good s t) : TurnOf i good s t :=
  ⟨s, .nothing, h⟩

/-- The end of an iteration: a `return` moves no register, a loop its cursor and chunk index. -/
theorem iterate_turn {i : Instr} {s t : State} {data : List Byte} {q q' : Seq} (hs : s.seq = some q)
    (htail : q'.tail = q.tail) (h : s.iterate data q' = .next t) : TurnOf i True s t := by
  have goesOn {cur k : U32} (hloop : ∀ r, q'.tail ≠ .ret r) : Prepares i s { s with cur := cur, k := k } :=
    .loopGoesOn cur k q hs (htail ▸ hloop)
  unfold State.iterate at h
  split at h
  · exact .of_ends (deliver_ends h)
  · next n hn =>
    obtain ⟨cur, he⟩ := readHead_ends h (by rw [hn]; rfl)
    exact ⟨_, goesOn (by simp [hn]), he⟩
  · next n hn =>
    obtain ⟨cur, he⟩ := writeHead_ends h (by rw [hn]; rfl)
    exact ⟨_, goesOn (by simp [hn]), he⟩
  · next g hg =>
    obtain ⟨cur, he⟩ := eraseHead_ends h
    exact ⟨_, goesOn (by simp [hg]), he⟩
  · next p tp hp =>
    obtain ⟨cur, he⟩ := eraseUpToHead_ends h
    exact ⟨_, goesOn (by simp [hp]), he⟩

/-- Consuming an answer (R34). -/
theorem resume_turn {i : Instr} {s t : State} {data : List Byte} {q : Seq} {r : TxnResult} (hs : s.seq = some q)
    (h : s.resume data q r = .next t) : TurnOf i (seqGood s.cfg q) s t := by
  obtain ⟨op, rest, hops, ⟨g, hj, ha⟩ | ⟨op', hj, rfl⟩ | ⟨e, -, rfl⟩⟩ := State.resume_next h
  · cases rest with
    | cons op' rest =>
      cases ha
      exact .of_ends (.driven _ op' rest fun hq => seqGood_proceed hq hops (judge_proceed hj))
    | nil =>
      obtain ⟨s', hp, he⟩ := iterate_turn (i := i) (q' := { q with acc := q.acc ++ g }) hs rfl ha
      exact ⟨s', hp, he.weaken fun _ => trivial⟩
  · obtain ⟨hok, hg⟩ := judge_replace hj
    exact .of_ends (.driven q op' rest fun hq => seqGood_replace hq hops hok hg)
  · exact .of_ends (.raised _ s q.tryItem e)

/-- A request's turn is its start or the consumption of an answer. -/
theorem runRequest_turn {i : Instr} {data : List Byte} {start : State → Step} {s t : State}
    (hstart : start s = .next t → TurnOf i True s t) (h : runRequest data start s = .next t) :
    TurnOf i (∀ q, s.seq = some q → seqGood s.cfg q) s t := by
  rcases runRequest_next h with ⟨-, hs⟩ | ⟨q, r, hq, -, hr⟩
  · obtain ⟨s', hp, he⟩ := hstart hs
    exact ⟨s', hp, he.weaken fun _ => trivial⟩
  · obtain ⟨s', hp, he⟩ := resume_turn hq hr
    exact ⟨s', hp, he.weaken fun hgood => hgood q hq⟩

/-! The starts of the requests. -/

theorem startOps_turn {i : Instr} {ops : List Op} {r : Ret} {s t : State} (hops : ∀ o ∈ ops, opOk s.cfg o)
    (hneeds : needs (.ret r) = none ∨ needs (.ret r) = some (ops.map gathers).sum) (h : startOps ops r s = .next t) :
    TurnOf i True s t :=
  .of_ends (take_ends h (seqGood_ret hops hneeds))

theorem startRead_turn {off len : U32} {s t : State} (h : startRead off len s = .next t) :
    TurnOf (.sread off len) True s t := by
  unfold startRead at h
  split at h
  · cases h
    exact .of_ends (.raised _ s false _)
  · obtain ⟨cur, he⟩ := readHead_ends h rfl
    exact ⟨_, .loopBegun _ _ (.inl ⟨_, _, rfl⟩), he⟩

theorem startWrite_turn {off : U32} {data : List Byte} {s t : State} (h : startWrite off data s = .next t) :
    TurnOf (.swrite off data) True s t := by
  unfold startWrite at h
  split at h
  · cases h
    exact .of_ends (.raised _ s false _)
  · obtain ⟨cur, he⟩ := writeHead_ends h rfl
    exact ⟨_, .loopBegun _ _ (.inr (.inl ⟨_, _, rfl⟩)), he⟩

theorem startErase_turn {fromOff toOff : U32} {s t : State} (h : startErase fromOff toOff s = .next t) :
    TurnOf (.serase fromOff toOff) True s t := by
  unfold startErase at h
  split at h
  · cases h
    exact .of_ends (.raised _ s false _)
  · split at h
    · obtain ⟨cur, he⟩ := eraseHead_ends h
      exact ⟨_, .loopBegun _ _ (.inr (.inr ⟨_, _, rfl⟩)), he⟩
    · obtain ⟨cur, he⟩ := eraseUpToHead_ends h
      exact ⟨_, .loopBegun _ _ (.inr (.inr ⟨_, _, rfl⟩)), he⟩

theorem startScan_turn {s t : State} (h : startScan s = .next t) : TurnOf .scanst True s t := by
  cases h
  exact ⟨_, .scanBegun rfl, .finished _⟩

theorem startScanNext_turn {s t : State} (h : startScanNext s = .next t) : TurnOf .scannx True s t := by
  unfold startScanNext at h
  split at h
  · cases h
    exact ⟨_, .scanEnded rfl, .finished _⟩
  · next hmore =>
    obtain ⟨hactive, hle⟩ := not_or.mp hmore
    refine ⟨_, .scanMoves rfl (by simpa using hactive) (Nat.le_of_not_lt hle), take_ends h (seqGood_ret ?_ (.inr rfl))⟩
    exact pageReadBody_append_ok _ _ (by simp)

/-- What a request's turn can do, whichever the request (R31, R35, R38). -/
theorem exec_request_turn {i : Instr} {s t : State} (hreq : isRequest i = true) (h : exec i s = .next t) :
    TurnOf i (∀ q, s.seq = some q → seqGood s.cfg q) s t := by
  cases i with
  | reset | wren | wrdi | wrreg | unprot | pwrdn =>
    exact runRequest_turn (startOps_turn (by simp [weSeq, framed, Instr.wf, opOk_of_ne_send]) (.inl rfl)) h
  | jedec | rdreg =>
    exact runRequest_turn (startOps_turn (by simp [opOk_of_ne_send]) (.inr rfl)) h
  | rdata col len => exact runRequest_turn (startOps_turn (by simp [opOk_of_ne_send]) (.inl rfl)) h
  | berase page => exact runRequest_turn (startOps_turn (eraseBody_ok _ page) (.inl rfl)) h
  | pload col data => exact runRequest_turn (startOps_turn (loadBody_ok _ col data) (.inl rfl)) h
  | ploadr col data => exact runRequest_turn (startOps_turn (randomLoadBody_ok _ col data) (.inl rfl)) h
  | pexec page => exact runRequest_turn (startOps_turn (programBody_ok _ page) (.inl rfl)) h
  | pread page => exact runRequest_turn (startOps_turn (pageReadBody_ok _ page) (.inl rfl)) h
  | bstat off =>
    exact runRequest_turn (startOps_turn (pageReadBody_append_ok _ _ (by simp)) (.inr rfl)) h
  | sread off len => exact runRequest_turn startRead_turn h
  | swrite off data => exact runRequest_turn startWrite_turn h
  | serase fromOff toOff => exact runRequest_turn startErase_turn h
  | scap =>
    refine runRequest_turn (data := []) (start := fun s => .next (s.finish (.ok (.number s.cfg.capacity)))) ?_ h
    rintro ⟨⟩
    exact .of_ends (.finished _)
  | scanst => exact runRequest_turn startScan_turn h
  | scannx => exact runRequest_turn startScanNext_turn h
  | _ => cases hreq

/-! ## What a turn leaves as it was -/

theorem Prepares.outside {i : Instr} {s s' : State} (h : Prepares i s s') :
    s'.cfg = s.cfg ∧ s'.dev = s.dev ∧ s'.desc = s.desc ∧ s'.trace = s.trace ∧ s'.script = s.script ∧
      s'.resetReq = s.resetReq ∧ s'.result = s.result := by
  cases h <;> exact ⟨rfl, rfl, rfl, rfl, rfl, rfl, rfl⟩

theorem Ends.outside {good : Prop} {s t : State} (h : Ends good s t) :
    t.cfg = s.cfg ∧ t.dev = s.dev ∧ t.desc = s.desc ∧ t.trace = s.trace ∧ t.script = s.script ∧
      t.resetReq = s.resetReq := by
  cases h <;> exact ⟨rfl, rfl, rfl, rfl, rfl, rfl⟩

/-- Nothing outside the encoder, nor its descriptor latch (R31, R41). -/
theorem TurnOf.outside {i : Instr} {good : Prop} {s t : State} (h : TurnOf i good s t) :
    t.cfg = s.cfg ∧ t.dev = s.dev ∧ t.desc = s.desc ∧ t.trace = s.trace ∧ t.script = s.script ∧
      t.resetReq = s.resetReq := by
  obtain ⟨s', hp, he⟩ := h
  obtain ⟨pcfg, pdev, pdesc, ptrace, pscript, preset, -⟩ := hp.outside
  obtain ⟨ecfg, edev, edesc, etrace, escript, ereset⟩ := he.outside
  exact ⟨ecfg.trans pcfg, edev.trans pdev, edesc.trans pdesc, etrace.trans ptrace, escript.trans pscript,
    ereset.trans preset⟩

/-- The end of a turn moves no register of R35 and R38. -/
theorem Ends.registers {good : Prop} {s t : State} (h : Ends good s t) :
    t.cur = s.cur ∧ t.k = s.k ∧ t.scanActive = s.scanActive ∧ t.scanNextPage = s.scanNextPage ∧
      t.scanEnd = s.scanEnd := by
  cases h <;> exact ⟨rfl, rfl, rfl, rfl, rfl⟩

/-- The result latch is written when the request ends, and not before (R32, R33). -/
theorem Ends.phase {good : Prop} {s t : State} (h : Ends good s t) :
    (t.phase = .idle ∧ t.seq = none ∧ t.bus = none) ∨
      (t.phase = .busy ∧ t.seq.isSome ∧ t.bus.isSome ∧ t.result = s.result) := by
  cases h with
  | finished r => exact .inl ⟨rfl, rfl, rfl⟩
  | driven q op rest hq => exact .inr ⟨rfl, rfl, rfl, rfl⟩

theorem Ends.rx_eq_none {good : Prop} {s t : State} (h : Ends good s t) : t.rx = none := by
  cases h <;> rfl

/-- Only the scanner requests move the scanner's state (R38). -/
theorem Prepares.scanner_eq {i : Instr} {s s' : State} (h : Prepares i s s') (hst : i ≠ .scanst)
    (hnx : i ≠ .scannx) :
    s'.scanActive = s.scanActive ∧ s'.scanNextPage = s.scanNextPage ∧ s'.scanEnd = s.scanEnd := by
  cases h with
  | nothing | loopBegun | loopGoesOn => exact ⟨rfl, rfl, rfl⟩
  | scanBegun hi => exact absurd hi hst
  | scanEnded hi | scanMoves hi => exact absurd hi hnx

/-- Only the loops move the cursor and the chunk index (R35). -/
theorem Prepares.cursor_eq {i : Instr} {s s' : State} (h : Prepares i s s')
    (htail : ∀ q, s.seq = some q → ∃ r, q.tail = .ret r) (hread : ∀ a b, i ≠ .sread a b)
    (hwrite : ∀ a b, i ≠ .swrite a b) (herase : ∀ a b, i ≠ .serase a b) : s'.cur = s.cur ∧ s'.k = s.k := by
  cases h with
  | nothing | scanBegun | scanEnded | scanMoves => exact ⟨rfl, rfl⟩
  | loopBegun cur k hi =>
    rcases hi with ⟨a, b, hi⟩ | ⟨a, b, hi⟩ | ⟨a, b, hi⟩
    · exact absurd hi (hread a b)
    · exact absurd hi (hwrite a b)
    · exact absurd hi (herase a b)
  | loopGoesOn cur k q hq hloop =>
    obtain ⟨r, hr⟩ := htail q hq
    exact absurd hr (hloop r)

/-- Settles O53: a turn moves the registers of `Prepares`, and then ends the request or drives a transaction. -/
theorem requestFrame : Obligations.RequestFrame := by
  unfold Obligations.RequestFrame
  intro i s t hreq h
  have hturn := exec_request_turn hreq h
  obtain ⟨hcfg, hdev, hdesc, htrace, hscript, hreset⟩ := hturn.outside
  obtain ⟨s', hp, he⟩ := hturn
  obtain ⟨hcur, hk, hactive, hnext, hend⟩ := he.registers
  refine ⟨hcfg, hdev, hdesc, htrace, hscript, hreset, fun hst hnx => ?_, ?_, he.rx_eq_none,
    fun htail hread hwrite herase => ?_⟩
  · obtain ⟨pactive, pnext, pend⟩ := hp.scanner_eq hst hnx
    exact ⟨hactive.trans pactive, hnext.trans pnext, hend.trans pend⟩
  · have hresult : s'.result = s.result := by
      obtain ⟨-, -, -, -, -, -, hresult⟩ := hp.outside
      exact hresult
    rw [← hresult]
    exact he.phase
  · obtain ⟨pcur, pk⟩ := hp.cursor_eq htail hread hwrite herase
    exact ⟨hcur.trans pcur, hk.trans pk⟩

/-! ## What one step can do -/

/-- A wire command's turn closes the window (R36). -/
theorem exec_wire_next {i : Instr} {s t : State} (hwire : isRequest i = false) (h : exec i s = .next t) :
    ∃ sent got d, t = s.closeWindow sent got d := by
  obtain ⟨-, hexec⟩ := wire_window hwire
  obtain ⟨m, d, -, ht⟩ := transact_next ((hexec s).symm.trans h)
  exact ⟨_, _, d, ht⟩

/-- Where a step leads from `s`: the window closes, a request's turn is made, or one of the moves of R309, R330 and
R40. -/
inductive StepsTo (s : State) : State → Prop
  | windowCloses (sent : List Byte) (got : TxnResult) (d : Device) : StepsTo s (s.closeWindow sent got d)
  | turn {i : Instr} {good : Prop} {t : State} (h : TurnOf i good s t) : StepsTo s t
  | badRequest (e : Err) : StepsTo s (s.raise false e)
  | encoderReset : StepsTo s s.encoderReset
  | waits : StepsTo s { s with script := [] }
  | submits (rest : List HostItem) (d : Descriptor) : StepsTo s ({ s with script := rest }.submit d)

theorem exec_stepsTo {i : Instr} {s t : State} (h : exec i s = .next t) : StepsTo s t := by
  cases hreq : isRequest i with
  | true => exact .turn (exec_request_turn hreq h)
  | false =>
    obtain ⟨sent, got, d, rfl⟩ := exec_wire_next hreq h
    exact .windowCloses sent got d

theorem step_stepsTo {s t : State} (h : step s = .next t) : StepsTo s t := by
  obtain ⟨-, h⟩ := step_next h
  rcases agentTurn_cases s with ⟨sent, -, hd⟩ | ⟨-, -, hreset⟩ | ⟨-, -, -, he⟩ | ⟨-, -, -, hh⟩
  · rw [hd] at h
    rcases deviceTurn_cases sent s with ⟨i, -, hi⟩ | ⟨e, -, hraw⟩
    · exact exec_stepsTo (hi.symm.trans h)
    · obtain ⟨m, d, -, rfl⟩ := transact_next (hraw.symm.trans h)
      exact .windowCloses _ _ d
  · cases hreset.symm.trans h
    exact .encoderReset
  · rw [he] at h
    rcases encoderTurn_cases s with ⟨i, -, hi⟩ | ⟨e, -, hbad⟩
    · exact exec_stepsTo (hi.symm.trans h)
    · cases hbad.symm.trans h
      exact .badRequest _
  · rw [hh] at h
    rcases hostTurn_cases s with ⟨-, hw⟩ | ⟨item, rest, -, hs⟩
    · cases hw.symm.trans h
      exact .waits
    · cases hs.symm.trans h
      exact .submits rest item.desc

theorem StepsTo.cfg_eq {s t : State} (h : StepsTo s t) : t.cfg = s.cfg := by
  cases h with
  | turn hturn => exact hturn.outside.1
  | windowCloses | badRequest | encoderReset | waits | submits => rfl

/-- Settles O52: no move of any agent writes the configuration. -/
theorem configurationFixed : Obligations.ConfigurationFixed := by
  unfold Obligations.ConfigurationFixed
  exact ⟨fun i s t h => (exec_stepsTo h).cfg_eq, fun s t h => (step_stepsTo h).cfg_eq⟩

/-! ## The result latch and the scanner -/

theorem errKind_le (e : Err) : (errKind e).toNat ≤ 0x0A := by
  cases e <;> simp [errKind]

/-- The code is one of R301, and a result with an error's code has no data (R127, R310). -/
theorem latchOf_codes (r : Result) :
    (latchOf r).kind.toNat ≤ 0x0A ∧ ((latchOf r).kind ≠ 0#8 → (latchOf r).dataOut = []) := by
  cases r with
  | err e => exact ⟨errKind_le e, fun _ => rfl⟩
  | ok p =>
    cases p with
    | item it =>
      cases it with
      | failed e => exact ⟨errKind_le e, fun _ => rfl⟩
      | found | finished => exact ⟨Nat.zero_le _, fun hne => absurd rfl hne⟩
    | _ => exact ⟨Nat.zero_le _, fun hne => absurd rfl hne⟩

theorem latchOk_finish (s : State) (r : Result) : latchOk (s.finish r) := by
  obtain ⟨hkind, hdata⟩ := latchOf_codes r
  exact ⟨.inl hkind, hdata⟩

/-- `latchOk` reads the result latch alone. -/
theorem latchOk_congr {s t : State} (h : t.result = s.result) : latchOk t ↔ latchOk s := by
  simp only [latchOk, h]

theorem latchOk_turn {i : Instr} {good : Prop} {s t : State} (hs : latchOk s) (h : TurnOf i good s t) :
    latchOk t := by
  obtain ⟨s', hp, he⟩ := h
  cases he with
  | finished r => exact latchOk_finish s' r
  | driven q op rest hq =>
    obtain ⟨-, -, -, -, -, -, hresult⟩ := hp.outside
    exact (latchOk_congr hresult).mpr hs

theorem latchOk_stepsTo {s t : State} (hs : latchOk s) (h : StepsTo s t) : latchOk t := by
  cases h with
  | turn hturn => exact latchOk_turn hs hturn
  | badRequest e => exact latchOk_finish s _
  | encoderReset => exact ⟨.inr rfl, fun _ => rfl⟩
  | windowCloses | waits | submits => exact hs

/-- `scannerOk` reads the scanner's state and the page count. -/
theorem scannerOk_congr {s t : State} (hcfg : t.cfg = s.cfg) (hactive : t.scanActive = s.scanActive)
    (hnext : t.scanNextPage = s.scanNextPage) (hend : t.scanEnd = s.scanEnd) : scannerOk t ↔ scannerOk s := by
  simp only [scannerOk, hcfg, hactive, hnext, hend]

/-- A scan begins at page 0 with the last block as its bound, and a step inside the bound stays within one block past it
(R290, R291). -/
theorem scannerOk_prepares {i : Instr} {s s' : State} (hgeo : s.cfg.geometryOk = true) (hs : scannerOk s)
    (h : Prepares i s s') : scannerOk s' := by
  obtain ⟨hmin, hblocks, hmax⟩ := (geometryOk_iff s.cfg).mp hgeo
  cases h with
  | nothing | loopBegun | loopGoesOn => exact hs
  | scanBegun hi =>
    refine fun _ => ⟨?_, rfl, Nat.zero_le _⟩
    have hfit : s.cfg.pageCount - 64 < 2 ^ 32 := by omega
    exact Nat.mod_eq_of_lt hfit
  | scanEnded hi => exact fun hactive => nomatch hactive
  | scanMoves hi hactive hle =>
    obtain ⟨hend, haligned, -⟩ := hs hactive
    have hlt : s.scanNextPage.toNat + 64 < 2 ^ 32 := by omega
    have hadd : (s.scanNextPage + 64#32).toNat = s.scanNextPage.toNat + 64 := BitVec.toNat_add_of_lt hlt
    refine fun _ => ⟨hend, ?_, ?_⟩ <;> simp only [hadd] <;> omega

theorem scannerOk_turn {i : Instr} {good : Prop} {s t : State} (hgeo : s.cfg.geometryOk = true) (hs : scannerOk s)
    (h : TurnOf i good s t) : scannerOk t := by
  obtain ⟨s', hp, he⟩ := h
  obtain ⟨hcfg, -⟩ := he.outside
  obtain ⟨-, -, hactive, hnext, hend⟩ := he.registers
  exact (scannerOk_congr hcfg hactive hnext hend).mpr (scannerOk_prepares hgeo hs hp)

theorem scannerOk_stepsTo {s t : State} (hgeo : s.cfg.geometryOk = true) (hs : scannerOk s) (h : StepsTo s t) :
    scannerOk t := by
  cases h with
  | turn hturn => exact scannerOk_turn hgeo hs hturn
  | encoderReset => exact fun hactive => nomatch hactive
  | windowCloses | badRequest | waits | submits => exact hs

/-- Settles O56: a result is latched when a request ends, and the scanner moves in its own requests. -/
theorem latchAndScannerInvariant : Obligations.LatchAndScannerInvariant := by
  unfold Obligations.LatchAndScannerInvariant
  rintro s t ⟨hscanner, hlatch⟩ h
  have hgeo : s.cfg.geometryOk = true := (valid_parts (step_next h).1).1
  exact ⟨scannerOk_stepsTo hgeo hscanner (step_stepsTo h), latchOk_stepsTo hlatch (step_stepsTo h)⟩

/-! ## The device's answer (R36, R156) -/

/-- A receiver reads a frame as the command it was made from (R156, R157). -/
theorem decodeWire_frame {c : Config} {i : Instr} (hv : c.valid = true) (hf : framed i = true)
    (hwf : i.wf c = true) (fill : Byte) : decodeWire c (streamOf fill (frame c i)) = .ok i := by
  have hn := fixedOpcodes_ne hv
  simp only [fixedOpcodes, List.pairwise_cons, List.mem_cons, List.not_mem_nil, or_false, forall_eq_or_imp,
    forall_eq] at hn
  cases i with
  | resetWire | writeEnableWire | writeDisableWire | readRegWire | writeRegWire =>
    simp [frame, Seg.sent, streamOf, decodeWire, noOperand, hn]
  | jedecWire => simp [frame, Seg.sent, streamOf, decodeWire, hn]
  | blockEraseWire page | programExecuteWire page | pageDataReadWire page =>
    simp [frame, Seg.sent, streamOf, decodeWire, hn, pageOperand, be3, join_be3]
  | loadProgramDataWire col data | randomLoadProgramDataWire col data =>
    simp [frame, Seg.sent, streamOf, decodeWire, hn, loadOperand, takeCol_colStream hwf]
  | readDataWire col len =>
    simp [frame, Seg.sent, streamOf, decodeWire, hn, readOperand, takeCol_colStream hwf]
  | powerDownWire =>
    have hp := powerDownOpcode_not_mem hv
    simp only [fixedOpcodes, List.mem_cons, List.not_mem_nil, or_false, not_or] at hp
    simp [frame, Seg.sent, streamOf, decodeWire, hp, noOperand]
  | _ => cases hf

@[simp] theorem blankAnswer_length (n : Nat) : (blankAnswer n).length = n := List.length_replicate

@[simp] theorem jedecAnswer_length (c : Config) (n : Nat) : (jedecAnswer c n).length = n := by
  simp only [jedecAnswer, List.length_map, List.length_range]

@[simp] theorem registerAnswer_length (n : Nat) (v : Byte) : (registerAnswer n v).length = n := by
  simp only [registerAnswer, List.length_map, List.length_range]

@[simp] theorem bufferAnswer_length (c : Config) (d : Device) (col fill : Nat) :
    (bufferAnswer c d col fill).length = 2 + c.colBytes + fill := by
  simp only [bufferAnswer, List.length_append, blankAnswer_length, List.length_map, List.length_range]

theorem takeCol_length {c : Config} {bs rest : List Byte} {col : U24} (h : takeCol c bs = some (col, rest)) :
    bs.length = c.colBytes + rest.length := by
  unfold takeCol at h
  unfold Config.colBytes
  cases bs with
  | nil => cases h
  | cons x bs =>
    simp only at h
    split at h
    · next y t hw => cases h; simp only [hw, List.length_cons]; omega
    · next y z t hw => cases h; simp only [hw, List.length_cons]; omega
    · cases h

/-- The reference device answers a byte for each byte of the window (R92). -/
theorem refHandle_length (c : Config) (d : Device) (sent : List Byte) :
    (refHandle c d sent).1.length = sent.length := by
  fun_cases refHandle c d sent with
  | case1 => rfl
  | case3 => exact jedecAnswer_length _ _
  | case5 => exact registerAnswer_length _ _
  | case15 =>
    have hlen := takeCol_length ‹takeCol c _ = some _›
    simp only [List.length_cons] at hlen
    simp only [bufferAnswer_length, List.length_cons, hlen]
    omega
  | _ => exact blankAnswer_length _

/-- What a device that answers keeps the length of the window, whichever device it is (R11). -/
theorem respond_length {c : Config} {d d' : Device} {sent m : List Byte}
    (h : respond c d sent = .answered (.ok m) d') : m.length = sent.length := by
  cases hdev : c.device with
  | oracle =>
    rw [respond_oracle hdev] at h
    injection h with hm
    rcases oracleAnswer_cases d.txnCount sent.length with ⟨t, ht⟩ | ⟨m', hm', hlen⟩
    · cases ht.symm.trans hm
    · cases hm'.symm.trans hm
      exact hlen
  | reference =>
    rw [respond_reference hdev] at h
    rcases refRespond_answered h with ⟨-, hm, -⟩ | ⟨-, -, -, hm, -⟩
    · cases hm
    · cases hm
      exact refHandle_length c d sent

/-- An answered transaction keeps as many bytes as its segments say (R11). -/
theorem transact_keeps {segs : List Seg} {s t : State} (h : transact segs s = .next t) :
    ∃ got d, t = s.closeWindow (streamOf s.cfg.rxFill segs) got d ∧
      ∀ bs, got = .ok bs → bs.length = keptLength segs := by
  obtain ⟨m, d, hm, rfl⟩ := transact_next h
  refine ⟨_, d, rfl, fun bs hbs => ?_⟩
  cases m with
  | err t => cases hbs
  | ok m =>
    cases hbs
    exact length_keptOf (respond_length hm)

/-! ## The sequencer, the bus and the phase (R33, R34) -/

theorem windowSegs_of_framed (c : Config) {i : Instr} (h : framed i = true) : windowSegs c i = frame c i := by
  cases i with
  | releasePowerDownWire | softwareResetWire => cases h
  | _ => rfl

theorem isRequest_of_framed {i : Instr} (h : framed i = true) : isRequest i = false := by
  cases i with
  | resetWire | jedecWire | readRegWire | writeRegWire | writeEnableWire | writeDisableWire | blockEraseWire
  | loadProgramDataWire | randomLoadProgramDataWire | programExecuteWire | pageDataReadWire | readDataWire
  | powerDownWire => rfl
  | _ => cases h

/-- What is decoded, if anything, is a request. -/
def SpellsRequest (r : Except DecodeError Instr) : Prop := ∀ i, r = .ok i → isRequest i = true

theorem SpellsRequest.ite {p : Prop} [Decidable p] {a b : Except DecodeError Instr} (ha : SpellsRequest a)
    (hb : SpellsRequest b) : SpellsRequest (if p then a else b) := by
  split
  · exact ha
  · exact hb

theorem SpellsRequest.error (e : DecodeError) : SpellsRequest (.error e) := nofun

theorem SpellsRequest.ok {i : Instr} (h : isRequest i = true) : SpellsRequest (.ok i) := by
  rintro _ ⟨⟩
  exact h

theorem SpellsRequest.withData {d : Descriptor} {i : Instr} (h : isRequest i = true) :
    SpellsRequest (withData d i) := .ite (.ok h) (.error _)

/-- A descriptor spells a request (R121). -/
theorem decodeRequest_spellsRequest (d : Descriptor) : SpellsRequest (decodeRequest d) := by
  fun_cases decodeRequest d with
  | case1 | case23 => exact .error _
  | case9 | case10 | case17 => exact .withData rfl
  | _ => exact .ok rfl

theorem sequencerOk_of_none {s : State} (hseq : s.seq = none) (hbus : s.bus = none) (hrx : s.rx = none) :
    sequencerOk s := by
  simp only [sequencerOk, hseq]
  exact ⟨hbus, hrx⟩

theorem sequencerOk_of_some {s : State} {q : Seq} (hseq : s.seq = some q) (hphase : s.phase = .busy)
    (hq : inFlight s q) : sequencerOk s := by
  simp only [sequencerOk, hseq]
  exact ⟨hphase, hq⟩

theorem sequencerOk_cases {s : State} (h : sequencerOk s) :
    (s.seq = none ∧ s.bus = none ∧ s.rx = none) ∨ ∃ q, s.seq = some q ∧ s.phase = .busy ∧ inFlight s q := by
  unfold sequencerOk at h
  split at h
  · next hs => exact .inl ⟨hs, h⟩
  · next q hs => exact .inr ⟨q, hs, h⟩

theorem seqGood_of_sequencerOk {s : State} {q : Seq} (h : sequencerOk s) (hq : s.seq = some q) : seqGood s.cfg q := by
  rcases sequencerOk_cases h with ⟨hnone, -, -⟩ | ⟨q', hq', -, -, hok, hneeds, -⟩
  · cases hnone.symm.trans hq
  · cases hq'.symm.trans hq
    exact ⟨hok, hneeds⟩

/-- The frame of a transaction in flight is read by the device, and its answer waits for the sequencer. -/
theorem sequencerOk_deviceTurn {s t : State} {sent : List Byte} (hv : s.cfg.valid = true) (hs : sequencerOk s)
    (hb : s.bus = some sent) (h : deviceTurn sent s = .next t) : sequencerOk t := by
  rcases sequencerOk_cases hs with ⟨-, hnone, -⟩ | ⟨q, hq, hphase, hdesc, hok, hneeds, op, rest, hops, hwhere⟩
  · cases hnone.symm.trans hb
  rcases hwhere with ⟨hbus, -⟩ | ⟨hnone, -⟩
  · obtain ⟨hf, hwf⟩ := hok op (by rw [hops]; exact List.mem_cons_self)
    have hd : decodeWire s.cfg sent = .ok (opCommand s.cfg op) := by
      cases hbus.symm.trans hb
      exact decodeWire_frame hv hf hwf _
    have htransact : transact (frame s.cfg (opCommand s.cfg op)) s = .next t := by
      obtain ⟨-, hexec⟩ := wire_window (isRequest_of_framed hf)
      rw [← windowSegs_of_framed _ hf, ← hexec, ← h]
      simp only [deviceTurn, hd]
    obtain ⟨got, d, rfl, hkept⟩ := transact_keeps htransact
    exact sequencerOk_of_some hq hphase ⟨hdesc, hok, hneeds, op, rest, hops, .inr ⟨rfl, got, rfl, hkept⟩⟩
  · cases hnone.symm.trans hb

/-- A request's turn ends it, or puts the frame of its next transaction on the bus. -/
theorem sequencerOk_turn {i : Instr} {s t : State} (hs : sequencerOk s) (hd : decodeRequest s.desc = .ok i)
    (h : TurnOf i (∀ q, s.seq = some q → seqGood s.cfg q) s t) : sequencerOk t := by
  obtain ⟨s', hp, he⟩ := h
  cases he with
  | finished r => exact sequencerOk_of_none rfl rfl rfl
  | driven q op rest hq =>
    obtain ⟨hok, hneeds⟩ := hq fun q hq => seqGood_of_sequencerOk hs hq
    obtain ⟨-, -, hdesc, -⟩ := hp.outside
    exact sequencerOk_of_some rfl rfl ⟨⟨i, (congrArg decodeRequest hdesc).trans hd⟩, hok, hneeds, op, rest, rfl,
      .inl ⟨rfl, rfl⟩⟩

theorem sequencerOk_encoderTurn {s t : State} (hs : sequencerOk s) (h : encoderTurn s = .next t) :
    sequencerOk t := by
  rcases encoderTurn_cases s with ⟨i, hd, hi⟩ | ⟨e, -, hbad⟩
  · exact sequencerOk_turn hs hd (exec_request_turn (decodeRequest_spellsRequest s.desc i hd) (hi.symm.trans h))
  · cases hbad.symm.trans h
    exact sequencerOk_of_none rfl rfl rfl

/-- An idle encoder has nothing in flight, and a submitted request has not begun (R40). -/
theorem sequencerOk_hostTurn {s t : State} (hs : sequencerOk s) (hp : s.phase = .idle) (h : hostTurn s = .next t) :
    sequencerOk t := by
  rcases hostTurn_cases s with ⟨-, hw⟩ | ⟨item, rest, -, hsub⟩
  · cases hw.symm.trans h
    rcases sequencerOk_cases hs with ⟨hseq, hbus, hrx⟩ | ⟨q, -, hbusy, -⟩
    · exact sequencerOk_of_none hseq hbus hrx
    · cases hp.symm.trans hbusy
  · cases hsub.symm.trans h
    exact sequencerOk_of_none rfl rfl rfl

/-- Settles O57: each agent's move keeps the agreement. -/
theorem sequencerInvariant : Obligations.SequencerInvariant := by
  unfold Obligations.SequencerInvariant
  intro s t hs h
  obtain ⟨hv, h⟩ := step_next h
  rcases agentTurn_cases s with ⟨sent, hb, hd⟩ | ⟨-, -, hreset⟩ | ⟨-, -, -, he⟩ | ⟨-, -, hp, hh⟩
  · exact sequencerOk_deviceTurn hv hs hb (hd.symm.trans h)
  · cases hreset.symm.trans h
    exact sequencerOk_of_none rfl rfl rfl
  · exact sequencerOk_encoderTurn hs (he.symm.trans h)
  · exact sequencerOk_hostTurn hs hp (hh.symm.trans h)

end Sys2Proof.Machine
end

section
/-! PROOFS of 20_memory: every step keeps the device's memories canonical and in range (O55); what the reference device
makes of each frame (O18 to O24); which windows it fails or refuses, and the two table constants without a frame
(O25). -/

namespace Sys2Proof.Machine

open Host

/-! ## The memories' invariant (R71, R72, R91) -/

/-- `deviceMemoryOk` of a configuration and a device, wherever they stand. -/
def memoriesOk (c : Config) (d : Device) : Prop :=
  d.array.wf ∧ d.array.below (c.pageCount * c.bufSize) ∧ d.buf.wf ∧ d.buf.below c.bufSize

theorem deviceMemoryOk_iff (s : State) : deviceMemoryOk s ↔ memoriesOk s.cfg s.dev := Iff.rfl

/-- Page `p` of the array ends inside it (R71). -/
theorem page_end_le {c : Config} {p : Nat} (h : p < c.pageCount) :
    p * c.bufSize + c.bufSize ≤ c.pageCount * c.bufSize := by
  rw [← Nat.succ_mul]
  exact Nat.mul_le_mul_right _ h

theorem memoriesOk_oracleDevice (c : Config) (count : Nat) : memoriesOk c (oracleDevice c count) :=
  ⟨Memory.ofCells_wf _ _, Memory.ofCells_below _ _, Memory.ofCells_wf _ _, Memory.ofCells_below _ _⟩

/-- What a load takes of its data ends inside the buffer, or is empty (R100). -/
theorem insideBuffer_fits (c : Config) (col : Nat) (data : List Byte) :
    insideBuffer c col data = [] ∨ col + (insideBuffer c col data).length ≤ c.bufSize := by
  by_cases hcol : col ≤ c.bufSize
  · right
    rw [insideBuffer, List.length_take]
    omega
  · left
    rw [insideBuffer, Nat.sub_eq_zero_of_le (Nat.le_of_not_le hcol), List.take_zero]

theorem memoriesOk_refBlockErase {c : Config} {d : Device} (h : memoriesOk c d) (p : Nat) :
    memoriesOk c (refBlockErase c d p) := by
  obtain ⟨hwf, hbelow, hbuf⟩ := h
  fun_cases refBlockErase c d p with
  | case2 => exact ⟨hwf, hbelow, hbuf⟩
  | case1 =>
    cases hfails : eraseFails c d p with
    | true => exact ⟨hwf, hbelow, hbuf⟩
    | false => exact ⟨Memory.erase_wf hwf _ _, Memory.erase_below hbelow _ _, hbuf⟩

theorem memoriesOk_refLoad {c : Config} {d : Device} (h : memoriesOk c d) (col : Nat) (data : List Byte) :
    memoriesOk c (refLoad c d col data) := by
  obtain ⟨hwf, hbelow, hbuf⟩ := h
  fun_cases refLoad c d col data with
  | case2 => exact ⟨hwf, hbelow, hbuf⟩
  | case1 =>
    have hempty : Memory.below [] c.bufSize := nofun
    exact ⟨hwf, hbelow, Memory.writeBytes_wf Memory.wf_nil _ _,
      Memory.writeBytes_below hempty (insideBuffer_fits c col data)⟩

theorem memoriesOk_refRandomLoad {c : Config} {d : Device} (h : memoriesOk c d) (col : Nat) (data : List Byte) :
    memoriesOk c (refRandomLoad c d col data) := by
  obtain ⟨hwf, hbelow, hbufwf, hbufbelow⟩ := h
  fun_cases refRandomLoad c d col data with
  | case2 => exact ⟨hwf, hbelow, hbufwf, hbufbelow⟩
  | case1 =>
    exact ⟨hwf, hbelow, Memory.writeBytes_wf hbufwf _ _,
      Memory.writeBytes_below hbufbelow (insideBuffer_fits c col data)⟩

theorem programmedArray_wf {c : Config} {d : Device} (h : memoriesOk c d) (p : Nat) :
    (programmedArray c d p).wf := by
  obtain ⟨hwf, -, hbufwf, -⟩ := h
  fun_cases programmedArray c d p with
  | case1 => exact Memory.putSlice_wf hwf hbufwf _ _
  | case2 => exact Memory.andSlice_wf hwf _ _ _

theorem programmedArray_below {c : Config} {d : Device} (h : memoriesOk c d) {p : Nat} (hp : p < c.pageCount) :
    (programmedArray c d p).below (c.pageCount * c.bufSize) := by
  obtain ⟨-, hbelow, -⟩ := h
  fun_cases programmedArray c d p with
  | case1 => exact Memory.putSlice_below hbelow (page_end_le hp)
  | case2 => exact Memory.andSlice_below hbelow (page_end_le hp)

/-- A page that can be programmed is a page of the array (R102). -/
theorem lt_pageCount_of_programs {c : Config} {d : Device} {p : Nat} (h : programFails c d p = false) :
    p < c.pageCount := by
  simp only [programFails, Bool.or_eq_false_iff, decide_eq_false_iff_not] at h
  omega

theorem memoriesOk_refProgram {c : Config} {d : Device} (h : memoriesOk c d) (p : Nat) :
    memoriesOk c (refProgram c d p) := by
  fun_cases refProgram c d p with
  | case2 => exact h
  | case1 =>
    cases hfails : programFails c d p with
    | true => exact h
    | false =>
      have hwf := programmedArray_wf h p
      have hbelow := programmedArray_below h (lt_pageCount_of_programs hfails)
      obtain ⟨-, -, hbuf⟩ := h
      exact ⟨hwf, hbelow, hbuf⟩

theorem memoriesOk_refPageRead {c : Config} {d : Device} (h : memoriesOk c d) (p : Nat) :
    memoriesOk c (refPageRead c d p) := by
  obtain ⟨hwf, hbelow, -⟩ := h
  refine ⟨hwf, hbelow, ?_⟩
  simp only [refPageRead]
  split
  · exact ⟨Memory.slice_wf hwf _ _, Memory.slice_below _ _ _⟩
  · exact ⟨Memory.wf_nil, nofun⟩

theorem memoriesOk_withPage {c : Config} {d : Device} {f : Device → Nat → Device} (h : memoriesOk c d)
    (hf : ∀ p, memoriesOk c (f d p)) (rest : List Byte) : memoriesOk c (withPage d f rest) := by
  fun_cases withPage d f rest with
  | case1 p => exact hf p
  | case2 => exact h

theorem memoriesOk_withColumn {c : Config} {d : Device} {f : Device → Nat → List Byte → Device}
    (h : memoriesOk c d) (hf : ∀ col data, memoriesOk c (f d col data)) (rest : List Byte) :
    memoriesOk c (withColumn c d f rest) := by
  fun_cases withColumn c d f rest with
  | case1 col data => exact hf col.toNat data
  | case2 => exact h

theorem memoriesOk_afterRegisterRead {c : Config} {d : Device} (h : memoriesOk c d) (sel : Byte) :
    memoriesOk c (afterRegisterRead d sel) := by
  fun_cases afterRegisterRead d sel <;> exact h

theorem memoriesOk_refWriteReg {c : Config} {d : Device} (h : memoriesOk c d) (sel val : Byte) :
    memoriesOk c (refWriteReg d sel val) := by
  fun_cases refWriteReg d sel val <;> exact h

/-- Whatever window the reference device handles (R94–R105). -/
theorem memoriesOk_refHandle {c : Config} {d : Device} (h : memoriesOk c d) (sent : List Byte) :
    memoriesOk c (refHandle c d sent).2 := by
  fun_cases refHandle c d sent with
  | case5 => exact memoriesOk_afterRegisterRead h _
  | case6 => exact memoriesOk_refWriteReg h _ _
  | case10 => exact memoriesOk_withPage h (memoriesOk_refBlockErase h) _
  | case11 => exact memoriesOk_withColumn h (memoriesOk_refLoad h) _
  | case12 => exact memoriesOk_withColumn h (memoriesOk_refRandomLoad h) _
  | case13 => exact memoriesOk_withPage h (memoriesOk_refProgram h) _
  | case14 => exact memoriesOk_withPage h (memoriesOk_refPageRead h) _
  | _ => exact h

/-- Whichever device answers. -/
theorem memoriesOk_respond {c : Config} {d d' : Device} {sent : List Byte} {m : TxnResult} (h : memoriesOk c d)
    (hr : respond c d sent = .answered m d') : memoriesOk c d' := by
  cases hdev : c.device with
  | oracle =>
    cases (respond_oracle hdev d sent).symm.trans hr
    exact memoriesOk_oracleDevice c d.txnCount
  | reference =>
    rw [respond_reference hdev] at hr
    rcases refRespond_answered hr with ⟨-, -, rfl⟩ | ⟨-, -, -, -, rfl⟩
    · exact h
    · exact memoriesOk_refHandle h sent

/-- An instruction leaves the device alone, or is a window that the device takes (R12, R41). -/
theorem exec_device {i : Instr} {s t : State} (h : exec i s = .next t) :
    t.dev = s.dev ∨ ∃ sent m, respond s.cfg s.dev sent = .answered m t.dev := by
  cases hreq : isRequest i with
  | true =>
    obtain ⟨-, hdev, -⟩ := (exec_request_turn hreq h).outside
    exact .inl hdev
  | false =>
    obtain ⟨-, hexec⟩ := wire_window hreq
    obtain ⟨m, d, hr, rfl⟩ := transact_next ((hexec s).symm.trans h)
    exact .inr ⟨_, m, hr⟩

/-- A step too leaves the device alone, or is a window that the device takes. -/
theorem step_device {s t : State} (h : step s = .next t) :
    t.dev = s.dev ∨ ∃ sent m, respond s.cfg s.dev sent = .answered m t.dev := by
  obtain ⟨-, h⟩ := step_next h
  rcases agentTurn_cases s with ⟨sent, -, hd⟩ | ⟨-, -, hreset⟩ | ⟨-, -, -, he⟩ | ⟨-, -, -, hh⟩
  · rw [hd] at h
    rcases deviceTurn_cases sent s with ⟨i, -, hi⟩ | ⟨e, -, hraw⟩
    · exact exec_device (hi.symm.trans h)
    · obtain ⟨m, d, hr, rfl⟩ := transact_next (hraw.symm.trans h)
      exact .inr ⟨_, m, hr⟩
  · cases hreset.symm.trans h
    exact .inl rfl
  · rw [he] at h
    rcases encoderTurn_cases s with ⟨i, -, hi⟩ | ⟨e, -, hbad⟩
    · exact exec_device (hi.symm.trans h)
    · cases hbad.symm.trans h
      exact .inl rfl
  · rw [hh] at h
    rcases hostTurn_cases s with ⟨-, hw⟩ | ⟨item, rest, -, hs⟩
    · cases hw.symm.trans h
      exact .inl rfl
    · cases hs.symm.trans h
      exact .inl rfl

/-- Settles O55: the device's memories change only in a window that the device takes, and there each operation keeps
them. -/
theorem memoryInvariant : Obligations.MemoryInvariant := by
  unfold Obligations.MemoryInvariant
  intro s t hs h
  rw [deviceMemoryOk_iff] at hs ⊢
  rw [(step_stepsTo h).cfg_eq]
  rcases step_device h with hdev | ⟨sent, m, hr⟩
  · rw [hdev]
    exact hs
  · exact memoriesOk_respond hs hr

/-! ## A window on the free reference device (R92) -/

/-- The reference device takes a window of a wire command: free, or with a Status3 read (R92, R93). -/
theorem exec_of_refReady {s : State} {i : Instr} (hwire : isRequest i = false) (hs : refReady s)
    (hbusy : s.dev.busyLeft = 0 ∨ isStatus3Read s.cfg (streamOf s.cfg.rxFill (windowSegs s.cfg i)) = true) :
    exec i s =
      .next (s.closeWindow (streamOf s.cfg.rxFill (windowSegs s.cfg i))
        (.ok (keptOf (windowSegs s.cfg i)
          (refHandle s.cfg s.dev (streamOf s.cfg.rxFill (windowSegs s.cfg i))).1))
        { (refHandle s.cfg s.dev (streamOf s.cfg.rxFill (windowSegs s.cfg i))).2 with
          txnCount := s.dev.txnCount + 1 }) := by
  obtain ⟨hdev, hfail, hpower⟩ := hs
  obtain ⟨-, hexec⟩ := wire_window hwire
  exact (hexec s).trans (transact_reference hdev hfail hpower hbusy)

@[simp] theorem streamOf_write (fill : Byte) (bytes : List Byte) : streamOf fill [.w bytes] = bytes :=
  List.append_nil bytes

/-- A command that is written alone keeps nothing of the answer: what it does is what the device makes of its bytes. -/
theorem exec_write_of_refIdle {s : State} {i : Instr} {bytes answer : List Byte} {d : Device}
    (hwire : isRequest i = false) (hs : refIdle s) (hsegs : windowSegs s.cfg i = [.w bytes])
    (hd : refHandle s.cfg s.dev bytes = (answer, d)) :
    exec i s = .next (s.closeWindow bytes (.ok []) { d with txnCount := s.dev.txnCount + 1 }) := by
  have h := exec_of_refReady hwire hs.1 (.inl hs.2)
  rw [hsegs, streamOf_write, hd] at h
  exact h

/-! ## One bit of Status3 (R52, R206) -/

theorem valid_layout {c : Config} (h : c.valid = true) : c.layout.ok = true := by
  obtain ⟨-, -, hlayout, -⟩ := valid_parts h
  exact hlayout

theorem setWidth_flag (v : Bool) :
    BitVec.setWidth 1 (if v = true then 1#8 else 0#8 : Byte) = if v = true then 1#1 else 0#1 := by
  cases v <;> rfl

theorem decodeSr3_flagSet_wel {l : SrLayout} (h : l.ok = true) (b : Byte) (v : Bool) :
    decodeSr3 l (flagSet b l.wel v) = { decodeSr3 l b with wel := if v = true then 1#1 else 0#1 } := by
  rw [flagSet, decodeSr3_set_wel h, setWidth_flag]

theorem decodeSr3_flagSet_busy {l : SrLayout} (h : l.ok = true) (b : Byte) (v : Bool) :
    decodeSr3 l (flagSet b l.busy v) = { decodeSr3 l b with busy := if v = true then 1#1 else 0#1 } := by
  rw [flagSet, decodeSr3_set_busy h, setWidth_flag]

theorem decodeSr3_flagSet_eFail {l : SrLayout} (h : l.ok = true) (b : Byte) (v : Bool) :
    decodeSr3 l (flagSet b l.eFail v) = { decodeSr3 l b with eFail := if v = true then 1#1 else 0#1 } := by
  rw [flagSet, decodeSr3_set_eFail h, setWidth_flag]

theorem decodeSr3_flagSet_pFail {l : SrLayout} (h : l.ok = true) (b : Byte) (v : Bool) :
    decodeSr3 l (flagSet b l.pFail v) = { decodeSr3 l b with pFail := if v = true then 1#1 else 0#1 } := by
  rw [flagSet, decodeSr3_set_pFail h, setWidth_flag]

/-- A field of one bit, as the device tests it, is the bit that a decoder yields (R200). -/
theorem flagGet_iff {f : Field} (h : f.fits 1 = true) (b : Byte) : flagGet b f = true ↔ fieldValue 1 b f = 1#1 := by
  obtain ⟨hi, lo⟩ := f
  obtain ⟨hle, hhi, hwidth⟩ : lo ≤ hi ∧ hi ≤ 7 ∧ hi + 1 - lo = 1 := (fits_iff ⟨hi, lo⟩ 1).mp h
  obtain rfl : hi = lo := by omega
  have hsmall : ∀ k < 8, ∀ b : Byte, (fieldGet b ⟨k, k⟩).toNat < 2 := by decide
  have hlt := hsmall hi (by omega) b
  simp only [flagGet, bne_iff_ne, ne_eq, fieldValue, ← BitVec.toNat_inj, BitVec.toNat_setWidth, BitVec.toNat_ofNat]
  omega

/-- `wel` as the device tests it (R98). -/
theorem wel_eq_one_iff {l : SrLayout} (h : l.ok = true) (b : Byte) :
    (decodeSr3 l b).wel = 1#1 ↔ flagGet b l.wel = true := by
  obtain ⟨⟨-, -, -, -, -, hwel, -⟩, -⟩ := layout_ok_sr3 h
  exact (flagGet_iff hwel b).symm

theorem wel_eq_zero_iff {l : SrLayout} (h : l.ok = true) (b : Byte) :
    (decodeSr3 l b).wel = 0#1 ↔ flagGet b l.wel = false := by
  have hbit : ∀ x : BitVec 1, x = 0#1 ↔ ¬x = 1#1 := by decide
  rw [hbit, wel_eq_one_iff h, Bool.not_eq_true]

/-! ## RESET, WRITE_ENABLE, WRITE_DISABLE, POWER_DOWN (R94, R98, R105) -/

/-- Settles O18: each frame is written alone, and the device's answer to it is known opcode by opcode. -/
theorem refControl : Obligations.RefControl := by
  unfold Obligations.RefControl
  intro s hv hs
  have hlayout := valid_layout hv
  refine ⟨exec_write_of_refIdle rfl hs rfl (refHandle_reset s.cfg s.dev []), 
    ⟨flagSet s.dev.sr3 s.cfg.layout.wel true, ?_, ?_⟩, ⟨flagSet s.dev.sr3 s.cfg.layout.wel false, ?_, ?_⟩,
    exec_write_of_refIdle rfl hs rfl (refHandle_powerDown hv s.dev [])⟩
  · exact decodeSr3_flagSet_wel hlayout s.dev.sr3 true
  · exact exec_write_of_refIdle rfl hs rfl (refHandle_writeEnable hv s.dev [])
  · exact decodeSr3_flagSet_wel hlayout s.dev.sr3 false
  · exact exec_write_of_refIdle rfl hs rfl (refHandle_writeDisable hv s.dev [])

/-! ## JEDEC and READ_DATA (R95, R104) -/

theorem colStream_length (c : Config) (col : U24) : (colStream c col).length = c.colBytes := by
  unfold colStream Config.colBytes
  cases c.colWidth <;> rfl

/-- What the device makes of a READ_DATA frame (R104). -/
theorem refHandle_readDataFrame {c : Config} (h : c.valid = true) (d : Device) {col : U24}
    (hcol : fitsColumn c col = true) (fill : List Byte) :
    refHandle c d (c.opc.readData :: (colStream c col ++ [dummyByte]) ++ fill) =
      (bufferAnswer c d col.toNat fill.length, d) := by
  have hstream : c.opc.readData :: (colStream c col ++ [dummyByte]) ++ fill =
      c.opc.readData :: (colStream c col ++ (dummyByte :: fill)) := by simp
  rw [hstream, refHandle_readData h d (takeCol_colStream hcol _)]

/-- Of the answer, what follows the opcode, the column and the dummy byte is kept (R152). -/
theorem keptOf_readDataFrame (c : Config) (d : Device) (col : U24) (len : U32) :
    keptOf (frame c (.readDataWire col len)) (bufferAnswer c d col.toNat len.toNat) =
      (List.range len.toNat).map fun i => bufferByte c d (col.toNat + i) := by
  have hskip : (c.opc.readData :: (colStream c col ++ [dummyByte])).length = (blankAnswer (2 + c.colBytes)).length := by
    simp only [List.length_cons, List.length_append, List.length_nil, colStream_length, blankAnswer_length]
    omega
  simp only [frame, keptOf, bufferAnswer, hskip, List.drop_left, List.append_nil]
  exact List.take_of_length_le (by simp)

/-- Settles O19: the frame's bytes reach the device as they are, and the kept part of its answer is the identity, or the
bytes of the buffer. -/
theorem refReads : Obligations.RefReads := by
  unfold Obligations.RefReads
  rintro s hv ⟨hready, hfree⟩
  refine ⟨?_, fun col len hcol => ?_⟩
  · have h := exec_of_refReady (i := .jedecWire) rfl hready (.inl hfree)
    have hstream : streamOf s.cfg.rxFill (windowSegs s.cfg .jedecWire) =
        s.cfg.opc.jedec :: [0x00#8, s.cfg.rxFill, s.cfg.rxFill, s.cfg.rxFill] := rfl
    rw [hstream, refHandle_jedec hv] at h
    rw [← valid_jedec hv]
    exact h
  · have h := exec_of_refReady (i := .readDataWire col len) rfl hready (.inl hfree)
    have hsegs : windowSegs s.cfg (.readDataWire col len) = frame s.cfg (.readDataWire col len) := rfl
    have hstream : streamOf s.cfg.rxFill (frame s.cfg (.readDataWire col len)) =
        s.cfg.opc.readData :: (colStream s.cfg col ++ [dummyByte]) ++ List.replicate len.toNat s.cfg.rxFill := by
      simp [frame, streamOf, Seg.sent]
    rw [hsegs, hstream, refHandle_readDataFrame hv s.dev hcol, List.length_replicate, keptOf_readDataFrame] at h
    exact h

/-! ## READ_REG and WRITE_REG (R96, R97) -/

/-- A register read: only a Status3 read counts down, and at 0 the count stays (R96). -/
theorem afterRegisterRead_eq (d : Device) (sel : Byte) :
    afterRegisterRead d sel =
      { d with busyLeft := if sel = selSr3 then d.busyLeft - 1 else d.busyLeft } := by
  unfold afterRegisterRead
  by_cases hsel : sel = selSr3
  · by_cases hbusy : 0 < d.busyLeft
    · rw [if_pos ⟨hsel, hbusy⟩, if_pos hsel]
    · have hzero : d.busyLeft = 0 := by omega
      rw [if_neg fun h => hbusy h.2, if_pos hsel, hzero, Nat.zero_sub, ← hzero]
  · rw [if_neg fun h => hsel h.1, if_neg hsel]

/-- A register write: Status1 or Status2 whole (R97). -/
theorem refWriteReg_eq (d : Device) (sel val : Byte) :
    refWriteReg d sel val =
      { d with sr1 := if sel = selSr1 then val else d.sr1, sr2 := if sel = selSr2 then val else d.sr2 } := by
  have hne : selSr1 ≠ selSr2 := by decide
  unfold refWriteReg
  by_cases h1 : sel = selSr1
  · rw [if_pos h1, if_pos h1, if_neg fun h2 => hne (h1.symm.trans h2)]
  · rw [if_neg h1, if_neg h1]
    by_cases h2 : sel = selSr2
    · rw [if_pos h2, if_pos h2]
    · rw [if_neg h2, if_neg h2]

theorem registerValue_sr1 (c : Config) (d : Device) : registerValue c d selSr1 = d.sr1 := rfl

theorem registerValue_sr2 (c : Config) (d : Device) : registerValue c d selSr2 = d.sr2 := rfl

theorem registerValue_sr3 (c : Config) (d : Device) : registerValue c d selSr3 = reportedSr3 c d := rfl

theorem registerValue_other (c : Config) (d : Device) {sel : Byte} (h1 : sel ≠ selSr1) (h2 : sel ≠ selSr2)
    (h3 : sel ≠ selSr3) : registerValue c d sel = 0x00#8 := by
  rw [registerValue, if_neg h1, if_neg h2, if_neg h3]

/-- Status3 as a read reports it differs from the register in `busy` alone (R96). -/
theorem decodeSr3_reportedSr3 {c : Config} (h : c.layout.ok = true) (d : Device) :
    decodeSr3 c.layout (reportedSr3 c d) =
      { decodeSr3 c.layout d.sr3 with busy := if 0 < d.busyLeft then 1#1 else 0#1 } := by
  rw [reportedSr3, decodeSr3_flagSet_busy h]
  simp only [decide_eq_true_eq]

/-- The window of a Status3 read is the one that a busy device takes (R93). -/
theorem isStatus3Read_readReg (c : Config) (rest : List Byte) :
    isStatus3Read c (c.opc.readReg :: selSr3 :: rest) = true := by
  simp only [isStatus3Read, beq_self_eq_true, Bool.and_self]

/-- Settles O20: the two frames' effects, and the values of the selects. -/
theorem refRegisters : Obligations.RefRegisters := by
  unfold Obligations.RefRegisters
  intro s sel val hv hs
  have hlayout := valid_layout hv
  refine ⟨fun hfree => ⟨registerValue s.cfg s.dev sel, ?_, ?_, ?_, ?_, registerValue_other s.cfg s.dev⟩,
    fun hfree => ?_⟩
  · have hstream : streamOf s.cfg.rxFill (windowSegs s.cfg (.readRegWire sel)) =
        s.cfg.opc.readReg :: sel :: [0x00#8] := rfl
    have h := exec_of_refReady (i := .readRegWire sel) rfl hs
      (hfree.imp_right fun hsel => by rw [hstream, hsel]; exact isStatus3Read_readReg s.cfg _)
    rw [hstream, refHandle_readReg hv, afterRegisterRead_eq] at h
    exact h
  · rintro rfl
    exact registerValue_sr1 s.cfg s.dev
  · rintro rfl
    exact registerValue_sr2 s.cfg s.dev
  · rintro rfl
    exact decodeSr3_reportedSr3 hlayout s.dev
  · have h := refHandle_writeReg hv s.dev sel val []
    rw [refWriteReg_eq] at h
    exact exec_write_of_refIdle rfl ⟨hs, hfree⟩ rfl h

/-! ## Page and column operands (R99 to R103) -/

theorem withPage_be3 (d : Device) (f : Device → Nat → Device) (page : U24) :
    withPage d f (be3 page) = f d page.toNat := by
  simp only [withPage, takePage_be3]

theorem withColumn_colStream {c : Config} {col : U24} (h : fitsColumn c col = true) (d : Device)
    (f : Device → Nat → List Byte → Device) (data : List Byte) :
    withColumn c d f (colStream c col ++ data) = f d col.toNat data := by
  simp only [withColumn, takeCol_colStream h]

/-- Block protection as the device tests it (R99, R102). -/
theorem forbidden_iff {s : State} (h : s.cfg.layout.ok = true) (p : Nat) :
    (decide (s.cfg.pageCount ≤ p) || protectedDevice s.cfg s.dev) = true ↔ refForbids s p := by
  rw [Bool.or_eq_true, decide_eq_true_eq, protectedDevice, fieldGet_bp h, refForbids]

/-! ## BLOCK_ERASE (R99) -/

theorem eraseFails_iff {s : State} (h : s.cfg.layout.ok = true) (p : Nat) :
    eraseFails s.cfg s.dev p = true ↔ refForbids s p ∨ p / 64 ∈ s.cfg.ref.failErase := by
  rw [eraseFails, Bool.or_eq_true, forbidden_iff h, List.contains_iff_mem, Nat.shiftRight_eq_div_pow]

theorem refBlockErase_of_wel_clear {c : Config} {d : Device} (h : flagGet d.sr3 c.layout.wel = false) (p : Nat) :
    refBlockErase c d p = d := by
  simp only [refBlockErase, h, Bool.false_eq_true, if_false]

theorem refBlockErase_of_fails {c : Config} {d : Device} {p : Nat} (h : flagGet d.sr3 c.layout.wel = true)
    (hfails : eraseFails c d p = true) :
    refBlockErase c d p =
      { d with sr3 := flagSet (flagSet d.sr3 c.layout.eFail true) c.layout.wel false,
               busyLeft := c.ref.busyPolls } := by
  simp only [refBlockErase, h, hfails, if_true]

theorem refBlockErase_of_succeeds {c : Config} {d : Device} {p : Nat} (h : flagGet d.sr3 c.layout.wel = true)
    (hfails : eraseFails c d p = false) :
    refBlockErase c d p =
      { d with array := d.array.erase (64 * (p / 64) * c.bufSize) (64 * c.bufSize),
               sr3 := flagSet (flagSet d.sr3 c.layout.eFail false) c.layout.wel false,
               busyLeft := c.ref.busyPolls } := by
  simp only [refBlockErase, h, hfails, Bool.false_eq_true, if_true, if_false, Nat.shiftRight_eq_div_pow,
    Nat.reducePow]

/-- An erase touches the array, Status3 and the busy count (R99). -/
theorem refBlockErase_frame (c : Config) (d : Device) (p : Nat) :
    refBlockErase c d p =
      { d with array := (refBlockErase c d p).array, sr3 := (refBlockErase c d p).sr3,
               busyLeft := (refBlockErase c d p).busyLeft } := by
  fun_cases refBlockErase c d p <;> rfl

/-- Status3 after an erase: its verdict, and `wel` clear (R99). -/
theorem decodeSr3_afterErase {l : SrLayout} (h : l.ok = true) (b : Byte) (v : Bool) :
    decodeSr3 l (flagSet (flagSet b l.eFail v) l.wel false) =
      { decodeSr3 l b with eFail := if v = true then 1#1 else 0#1, wel := 0#1 } := by
  rw [decodeSr3_flagSet_wel h, decodeSr3_flagSet_eFail h]
  rfl

theorem exec_blockErase {s : State} (hv : s.cfg.valid = true) (hs : refIdle s) (page : U24) :
    exec (.blockEraseWire page) s =
      .next (s.closeWindow (s.cfg.opc.blockErase :: be3 page) (.ok [])
        { refBlockErase s.cfg s.dev page.toNat with txnCount := s.dev.txnCount + 1 }) :=
  exec_write_of_refIdle rfl hs rfl
    ((refHandle_blockErase hv s.dev (be3 page)).trans (by rw [withPage_be3]))

/-- Settles O21: by `wel`, and by the erase's verdict. -/
theorem refErase : Obligations.RefErase := by
  unfold Obligations.RefErase
  intro s page hv hs
  have hlayout := valid_layout hv
  refine ⟨_, exec_blockErase hv hs page, ?_, fun hwel => ?_, fun hwel => ?_⟩
  · exact congrArg (fun d : Device => { d with txnCount := s.dev.txnCount + 1 })
      (refBlockErase_frame s.cfg s.dev page.toNat)
  · rw [refBlockErase_of_wel_clear ((wel_eq_zero_iff hlayout _).mp hwel)]
  · have hset := (wel_eq_one_iff hlayout _).mp hwel
    have hverdict := eraseFails_iff hlayout page.toNat
    cases hfails : eraseFails s.cfg s.dev page.toNat with
    | true =>
      rw [refBlockErase_of_fails hset hfails]
      refine ⟨rfl, fun _ => ⟨rfl, decodeSr3_afterErase hlayout _ true⟩, fun hallowed hgood => ?_⟩
      exact absurd (hverdict.mp hfails) (not_or.mpr ⟨hallowed, hgood⟩)
    | false =>
      rw [refBlockErase_of_succeeds hset hfails]
      refine ⟨rfl, fun hbad => ?_, fun _ _ => ⟨decodeSr3_afterErase hlayout _ false, Memory.read_erase _ _ _⟩⟩
      exact absurd (hverdict.mpr hbad) (Bool.eq_false_iff.mp hfails)

/-! ## LOAD_PROGRAM_DATA and RANDOM_LOAD_PROGRAM_DATA (R100, R101) -/

/-- What a load leaves at each column: its data as far as the buffer goes, and what was there elsewhere. -/
theorem read_writeBytes_insideBuffer (c : Config) (m : Memory) (col : Nat) (data : List Byte) (a : Nat) :
    (m.writeBytes col (insideBuffer c col data)).read a =
      if col ≤ a ∧ a < col + data.length ∧ a < c.bufSize then data.getD (a - col) 0xFF#8 else m.read a := by
  have hlength : (insideBuffer c col data).length = min (c.bufSize - col) data.length := List.length_take
  rw [Memory.read_writeBytes]
  by_cases hin : col ≤ a ∧ a < col + data.length ∧ a < c.bufSize
  · obtain ⟨hcol, hdata, hbuf⟩ := hin
    have hlt : a - col < data.length := by omega
    rw [dif_pos ⟨hcol, by omega⟩, if_pos ⟨hcol, hdata, hbuf⟩, List.getD_eq_getElem _ _ hlt]
    simp only [insideBuffer, List.getElem_take]
  · rw [dif_neg (by omega), if_neg hin]

theorem refLoad_of_wel_clear {c : Config} {d : Device} (h : flagGet d.sr3 c.layout.wel = false) (col : Nat)
    (data : List Byte) : refLoad c d col data = d := by
  simp only [refLoad, h, Bool.false_eq_true, if_false]

theorem refLoad_of_wel_set {c : Config} {d : Device} (h : flagGet d.sr3 c.layout.wel = true) (col : Nat)
    (data : List Byte) :
    refLoad c d col data = { d with buf := Memory.writeBytes [] col (insideBuffer c col data) } := by
  simp only [refLoad, h, if_true]

theorem refLoad_frame (c : Config) (d : Device) (col : Nat) (data : List Byte) :
    refLoad c d col data = { d with buf := (refLoad c d col data).buf } := by
  fun_cases refLoad c d col data <;> rfl

theorem refRandomLoad_of_wel_clear {c : Config} {d : Device} (h : flagGet d.sr3 c.layout.wel = false) (col : Nat)
    (data : List Byte) : refRandomLoad c d col data = d := by
  simp only [refRandomLoad, h, Bool.false_eq_true, if_false]

theorem refRandomLoad_of_wel_set {c : Config} {d : Device} (h : flagGet d.sr3 c.layout.wel = true) (col : Nat)
    (data : List Byte) :
    refRandomLoad c d col data = { d with buf := d.buf.writeBytes col (insideBuffer c col data) } := by
  simp only [refRandomLoad, h, if_true]

theorem refRandomLoad_frame (c : Config) (d : Device) (col : Nat) (data : List Byte) :
    refRandomLoad c d col data = { d with buf := (refRandomLoad c d col data).buf } := by
  fun_cases refRandomLoad c d col data <;> rfl

theorem exec_loadProgramData {s : State} (hv : s.cfg.valid = true) (hs : refIdle s) {col : U24}
    (hcol : fitsColumn s.cfg col = true) (data : List Byte) :
    exec (.loadProgramDataWire col data) s =
      .next (s.closeWindow (s.cfg.opc.loadProgramData :: (colStream s.cfg col ++ data)) (.ok [])
        { refLoad s.cfg s.dev col.toNat data with txnCount := s.dev.txnCount + 1 }) :=
  exec_write_of_refIdle rfl hs rfl
    ((refHandle_loadProgramData hv s.dev _).trans (by rw [withColumn_colStream hcol]))

theorem exec_randomLoadProgramData {s : State} (hv : s.cfg.valid = true) (hs : refIdle s) {col : U24}
    (hcol : fitsColumn s.cfg col = true) (data : List Byte) :
    exec (.randomLoadProgramDataWire col data) s =
      .next (s.closeWindow (s.cfg.opc.randomLoadProgramData :: (colStream s.cfg col ++ data)) (.ok [])
        { refRandomLoad s.cfg s.dev col.toNat data with txnCount := s.dev.txnCount + 1 }) :=
  exec_write_of_refIdle rfl hs rfl
    ((refHandle_randomLoadProgramData hv s.dev _).trans (by rw [withColumn_colStream hcol]))

/-- Settles O22: by `wel`; with it set, the plain load writes into an empty buffer, the random load into the old one. -/
theorem refLoads : Obligations.RefLoads := by
  unfold Obligations.RefLoads
  intro s col data hv hs hcol
  have hlayout := valid_layout hv
  refine ⟨⟨_, exec_loadProgramData hv hs hcol data, ?_, fun hwel => ?_, fun hwel => ?_⟩,
    ⟨_, exec_randomLoadProgramData hv hs hcol data, ?_, fun hwel => ?_, fun hwel => ?_⟩⟩
  · exact congrArg (fun d : Device => { d with txnCount := s.dev.txnCount + 1 })
      (refLoad_frame s.cfg s.dev col.toNat data)
  · rw [refLoad_of_wel_clear ((wel_eq_zero_iff hlayout _).mp hwel)]
  · rw [refLoad_of_wel_set ((wel_eq_one_iff hlayout _).mp hwel)]
    exact read_writeBytes_insideBuffer s.cfg [] col.toNat data
  · exact congrArg (fun d : Device => { d with txnCount := s.dev.txnCount + 1 })
      (refRandomLoad_frame s.cfg s.dev col.toNat data)
  · rw [refRandomLoad_of_wel_clear ((wel_eq_zero_iff hlayout _).mp hwel)]
  · rw [refRandomLoad_of_wel_set ((wel_eq_one_iff hlayout _).mp hwel)]
    exact read_writeBytes_insideBuffer s.cfg s.dev.buf col.toNat data

/-! ## PROGRAM_EXECUTE (R102) -/

theorem programFails_iff {s : State} (h : s.cfg.layout.ok = true) (p : Nat) :
    programFails s.cfg s.dev p = true ↔ refForbids s p ∨ p ∈ s.cfg.ref.failProgram := by
  rw [programFails, Bool.or_eq_true, forbidden_iff h, List.contains_iff_mem]

theorem refProgram_of_wel_clear {c : Config} {d : Device} (h : flagGet d.sr3 c.layout.wel = false) (p : Nat) :
    refProgram c d p = d := by
  simp only [refProgram, h, Bool.false_eq_true, if_false]

theorem refProgram_of_fails {c : Config} {d : Device} {p : Nat} (h : flagGet d.sr3 c.layout.wel = true)
    (hfails : programFails c d p = true) :
    refProgram c d p =
      { d with sr3 := flagSet (flagSet d.sr3 c.layout.pFail true) c.layout.wel false,
               busyLeft := c.ref.busyPolls } := by
  simp only [refProgram, h, hfails, if_true]

theorem refProgram_of_succeeds {c : Config} {d : Device} {p : Nat} (h : flagGet d.sr3 c.layout.wel = true)
    (hfails : programFails c d p = false) :
    refProgram c d p =
      { d with array := programmedArray c d p,
               sr3 := flagSet (flagSet d.sr3 c.layout.pFail false) c.layout.wel false,
               busyLeft := c.ref.busyPolls } := by
  simp only [refProgram, h, hfails, Bool.false_eq_true, if_true, if_false]

/-- A program touches the array, Status3 and the busy count (R102). -/
theorem refProgram_frame (c : Config) (d : Device) (p : Nat) :
    refProgram c d p =
      { d with array := (refProgram c d p).array, sr3 := (refProgram c d p).sr3,
               busyLeft := (refProgram c d p).busyLeft } := by
  fun_cases refProgram c d p <;> rfl

/-- Status3 after a program: its verdict, and `wel` clear (R102). -/
theorem decodeSr3_afterProgram {l : SrLayout} (h : l.ok = true) (b : Byte) (v : Bool) :
    decodeSr3 l (flagSet (flagSet b l.pFail v) l.wel false) =
      { decodeSr3 l b with pFail := if v = true then 1#1 else 0#1, wel := 0#1 } := by
  rw [decodeSr3_flagSet_wel h, decodeSr3_flagSet_pFail h]
  rfl

theorem read_programmedArray_overwrite {c : Config} (h : c.ref.programSemantics = .overwrite) (d : Device)
    (p a : Nat) :
    (programmedArray c d p).read a =
      if p * c.bufSize ≤ a ∧ a < p * c.bufSize + c.bufSize then d.buf.read (a - p * c.bufSize)
      else d.array.read a := by
  simp only [programmedArray, h]
  exact Memory.read_putSlice _ _ _ _ _

theorem read_programmedArray_andMask {c : Config} (h : c.ref.programSemantics = .andMask) {d : Device}
    (hbuf : d.buf.wf) (p a : Nat) :
    (programmedArray c d p).read a =
      if p * c.bufSize ≤ a ∧ a < p * c.bufSize + c.bufSize then d.array.read a &&& d.buf.read (a - p * c.bufSize)
      else d.array.read a := by
  simp only [programmedArray, h]
  exact Memory.read_andSlice hbuf _ _ _

theorem exec_programExecute {s : State} (hv : s.cfg.valid = true) (hs : refIdle s) (page : U24) :
    exec (.programExecuteWire page) s =
      .next (s.closeWindow (s.cfg.opc.programExecute :: be3 page) (.ok [])
        { refProgram s.cfg s.dev page.toNat with txnCount := s.dev.txnCount + 1 }) :=
  exec_write_of_refIdle rfl hs rfl
    ((refHandle_programExecute hv s.dev (be3 page)).trans (by rw [withPage_be3]))

/-- Settles O23: by `wel`, by the program's verdict, and by the semantics. (`refProgram` is the model's own name for the
device's operation.) -/
theorem refProgramExecute : Obligations.RefProgram := by
  unfold Obligations.RefProgram
  intro s page hv hs hmem
  have hlayout := valid_layout hv
  refine ⟨_, exec_programExecute hv hs page, ?_, fun hwel => ?_, fun hwel => ?_⟩
  · exact congrArg (fun d : Device => { d with txnCount := s.dev.txnCount + 1 })
      (refProgram_frame s.cfg s.dev page.toNat)
  · rw [refProgram_of_wel_clear ((wel_eq_zero_iff hlayout _).mp hwel)]
  · have hset := (wel_eq_one_iff hlayout _).mp hwel
    have hverdict := programFails_iff hlayout page.toNat
    cases hfails : programFails s.cfg s.dev page.toNat with
    | true =>
      rw [refProgram_of_fails hset hfails]
      refine ⟨rfl, fun _ => ⟨rfl, decodeSr3_afterProgram hlayout _ true⟩, fun hallowed hgood => ?_⟩
      exact absurd (hverdict.mp hfails) (not_or.mpr ⟨hallowed, hgood⟩)
    | false =>
      rw [refProgram_of_succeeds hset hfails]
      refine ⟨rfl, fun hbad => absurd (hverdict.mpr hbad) (Bool.eq_false_iff.mp hfails),
        fun _ _ => ⟨decodeSr3_afterProgram hlayout _ false, ?_⟩⟩
      obtain ⟨-, -, hbuf, -⟩ := hmem
      cases hsem : s.cfg.ref.programSemantics with
      | overwrite => exact read_programmedArray_overwrite hsem s.dev page.toNat
      | andMask => exact read_programmedArray_andMask hsem hbuf page.toNat

/-! ## PAGE_DATA_READ (R103) -/

/-- The buffer after a page read: the page, or 0xFF for a page outside the array. -/
theorem read_refPageRead_buf (c : Config) (d : Device) (p a : Nat) :
    (refPageRead c d p).buf.read a =
      if p < c.pageCount ∧ a < c.bufSize then d.array.read (p * c.bufSize + a) else 0xFF#8 := by
  by_cases hp : p < c.pageCount
  · simp only [refPageRead, hp, if_true, true_and, Memory.read_slice]
    rfl
  · simp only [refPageRead, hp, if_false, false_and, Memory.read_nil]
    rfl

theorem exec_pageDataRead {s : State} (hv : s.cfg.valid = true) (hs : refIdle s) (page : U24) :
    exec (.pageDataReadWire page) s =
      .next (s.closeWindow (s.cfg.opc.pageDataRead :: be3 page) (.ok [])
        { refPageRead s.cfg s.dev page.toNat with txnCount := s.dev.txnCount + 1 }) :=
  exec_write_of_refIdle rfl hs rfl
    ((refHandle_pageDataRead hv s.dev (be3 page)).trans (by rw [withPage_be3]))

/-- Settles O24: `ecc` is set to 0 in Status3, and the buffer is the page. (`refPageRead` is the model's own name for
the device's operation.) -/
theorem refPageDataRead : Obligations.RefPageRead := by
  unfold Obligations.RefPageRead
  intro s page hv hs
  have hlayout := valid_layout hv
  exact ⟨_, exec_pageDataRead hv hs page, rfl, decodeSr3_set_ecc hlayout _ _,
    read_refPageRead_buf s.cfg s.dev page.toNat⟩

/-! ## Windows that fail or are refused (R92, R93) -/

theorem refRespond_of_listed {c : Config} {d : Device} (h : d.txnCount ∈ c.ref.txnFail) (sent : List Byte) :
    refRespond c d sent = .answered (.err refTransportError) { d with txnCount := d.txnCount + 1 } := by
  rw [refRespond, if_pos (List.contains_iff_mem.mpr h)]

theorem refRespond_of_poweredDown {c : Config} {d : Device} (h : d.txnCount ∉ c.ref.txnFail)
    (hpower : d.poweredDown = true) (sent : List Byte) :
    refRespond c d sent = .refused .devicePoweredDown := by
  rw [refRespond, if_neg (mt List.contains_iff_mem.mp h), if_pos hpower]

theorem refRespond_of_busy {c : Config} {d : Device} {sent : List Byte} (h : d.txnCount ∉ c.ref.txnFail)
    (hpower : d.poweredDown = false) (hbusy : 0 < d.busyLeft) (hsent : isStatus3Read c sent = false) :
    refRespond c d sent = .refused .deviceBusy := by
  rw [refRespond, if_neg (mt List.contains_iff_mem.mp h), if_neg (Bool.eq_false_iff.mp hpower),
    if_pos ⟨hbusy, hsent⟩]

theorem transact_of_refused {segs : List Seg} {s : State} {r : Refusal}
    (h : respond s.cfg s.dev (streamOf s.cfg.rxFill segs) = .refused r) : transact segs s = .refused r := by
  simp only [transact, h]

/-- What is spelled as a stream is a wire command (R37). -/
theorem isRequest_of_encode_stream {c : Config} {i : Instr} {sent : List Byte} (h : encode c i = .stream sent) :
    isRequest i = false := by
  cases i with
  | resetWire | jedecWire | readRegWire | writeRegWire | writeEnableWire | writeDisableWire | blockEraseWire
  | loadProgramDataWire | randomLoadProgramDataWire | programExecuteWire | pageDataReadWire | readDataWire
  | powerDownWire | releasePowerDownWire | softwareResetWire => rfl
  | _ => cases h

theorem isStatus3Read_of_ne {c : Config} {op : Byte} (h : op ≠ c.opc.readReg) (rest : List Byte) :
    isStatus3Read c (op :: rest) = false := by
  cases rest with
  | nil => rfl
  | cons sel rest => simp only [isStatus3Read, beq_false_of_ne h, Bool.false_and]

/-- No window but the one that reads Status3 is taken for it (R93, R158): the other opcodes differ, the other selects
differ, and a byte alone selects nothing. -/
theorem isStatus3Read_window {c : Config} (hv : c.valid = true) {i : Instr} (hwire : isRequest i = false)
    (hne : i ≠ .readRegWire selSr3) : isStatus3Read c (streamOf c.rxFill (windowSegs c i)) = false := by
  have hn := fixedOpcodes_ne hv
  simp only [fixedOpcodes, List.pairwise_cons, List.mem_cons, List.not_mem_nil, or_false, forall_eq_or_imp,
    forall_eq] at hn
  cases i with
  | readRegWire sel =>
    have hsel : sel ≠ selSr3 := fun h => hne (h ▸ rfl)
    simp [windowSegs, frame, streamOf, Seg.sent, isStatus3Read, hsel]
  | resetWire | writeEnableWire | writeDisableWire | powerDownWire | releasePowerDownWire | softwareResetWire => rfl
  | jedecWire =>
    have hjedec : ¬c.opc.readReg = c.opc.jedec := by simp only [hn, not_false_eq_true]
    exact isStatus3Read_of_ne (Ne.symm hjedec) _
  | writeRegWire | blockEraseWire | loadProgramDataWire | randomLoadProgramDataWire | programExecuteWire
  | pageDataReadWire | readDataWire => exact isStatus3Read_of_ne (by simp only [ne_eq, hn, not_false_eq_true]) _
  | _ => cases hwire

/-! ## The two table constants without a frame (R154, R155, log 16) -/

/-- What a configuration binds for the two constants is none of the thirteen opcodes that have a frame (R158). -/
theorem bound_lone_not_mem {c : Config} (h : c.valid = true) {b : Byte}
    (hb : b ∈ c.opc.releasePowerDown.toList ++ c.opc.softwareReset.toList) :
    b ∉ fixedOpcodes c.opc ++ [powerDownOpcode c] := by
  have hn := boundOpcodes_nodup h
  rw [boundOpcodes_eq] at hn
  obtain ⟨-, hrest, hfixed⟩ := List.nodup_append'.mp hn
  have hpower : b ≠ powerDownOpcode c := by
    unfold powerDownOpcode
    split
    · next p hp =>
      rintro rfl
      obtain ⟨-, -, hdisjoint⟩ := List.nodup_append'.mp hrest
      exact hdisjoint (by simp [hp]) hb
    · have hl := boundOpcodes_length c.opc
      have hmem : b ∈ boundOpcodes c.opc := by
        rw [boundOpcodes_eq]
        exact List.mem_append_right _ (List.mem_append_right _ hb)
      exact fun heq => pickUnused_not_mem (by omega) _ (heq ▸ hmem)
  intro hmem
  rcases List.mem_append.mp hmem with hmem | hmem
  · exact hfixed hmem (List.mem_append_right _ hb)
  · exact hpower (List.mem_singleton.mp hmem)

/-- A free choice among the bytes that a longer list leaves is none of them either (R158, log 8). -/
theorem pickUnused_lone_not_mem {c : Config} {used : List Byte}
    (hused : boundOpcodes c.opc ++ [powerDownOpcode c] ⊆ used) (hl : used.length < 256) (k : Nat) :
    pickUnused used k ∉ fixedOpcodes c.opc ++ [powerDownOpcode c] := by
  intro hmem
  refine pickUnused_not_mem hl k (hused ?_)
  rw [boundOpcodes_eq]
  rcases List.mem_append.mp hmem with hmem | hmem
  · exact List.mem_append_left _ (List.mem_append_left _ hmem)
  · exact List.mem_append_right _ hmem

theorem releaseOpcode_not_mem {c : Config} (h : c.valid = true) :
    releaseOpcode c ∉ fixedOpcodes c.opc ++ [powerDownOpcode c] := by
  have hl := boundOpcodes_length c.opc
  unfold releaseOpcode
  split
  · next b hb => exact bound_lone_not_mem h (by simp [hb])
  · exact pickUnused_lone_not_mem (List.Subset.refl _)
      (by simp only [List.length_append, List.length_singleton]; omega) _

theorem softwareResetOpcode_not_mem {c : Config} (h : c.valid = true) :
    softwareResetOpcode c ∉ fixedOpcodes c.opc ++ [powerDownOpcode c] := by
  have hl := boundOpcodes_length c.opc
  unfold softwareResetOpcode
  split
  · next b hb => exact bound_lone_not_mem h (by simp [hb])
  · exact pickUnused_lone_not_mem (by simp)
      (by simp only [List.length_append, List.length_cons, List.length_nil]; omega) _

/-- A byte that begins no frame has no effect (R92). -/
theorem refHandle_noFrame {c : Config} {op : Byte} (h : op ∉ fixedOpcodes c.opc ++ [powerDownOpcode c]) (d : Device)
    (rest : List Byte) : refHandle c d (op :: rest) = (blankAnswer (rest.length + 1), d) := by
  simp only [fixedOpcodes, List.mem_append, List.mem_cons, List.not_mem_nil, or_false, not_or] at h
  simp only [refHandle, h, if_false]

/-- Settles O25: a wire command is the transaction of its window, and the reference device asks for the failing
transactions first, then for power-down, then for the busy count. -/
theorem refFailsOrRefuses : Obligations.RefFailsOrRefuses := by
  unfold Obligations.RefFailsOrRefuses
  refine ⟨fun s i sent hv hdev henc => ?_, fun s hv hs => ⟨?_, ?_⟩⟩
  · have hwire := isRequest_of_encode_stream henc
    obtain ⟨hencode, hexec⟩ := wire_window hwire
    obtain rfl : sent = streamOf s.cfg.rxFill (windowSegs s.cfg i) := by
      cases henc.symm.trans (hencode s.cfg)
      rfl
    rw [hexec]
    have hrespond := respond_reference hdev s.dev (streamOf s.cfg.rxFill (windowSegs s.cfg i))
    refine ⟨fun hlisted => ⟨refTransportError, ?_⟩, fun hlisted hpower => ?_,
      fun hlisted hpower hbusy hne => ?_⟩
    · exact transact_of_answered (hrespond.trans (refRespond_of_listed hlisted _))
    · exact transact_of_refused (hrespond.trans (refRespond_of_poweredDown hlisted hpower _))
    · exact transact_of_refused
        (hrespond.trans (refRespond_of_busy hlisted hpower hbusy (isStatus3Read_window hv hwire hne)))
  · exact exec_write_of_refIdle rfl hs rfl (refHandle_noFrame (releaseOpcode_not_mem hv) s.dev [])
  · exact exec_write_of_refIdle rfl hs rfl (refHandle_noFrame (softwareResetOpcode_not_mem hv) s.dev [])

end Sys2Proof.Machine
end

section
/-! PROOFS of 30_encoding: decoding takes an encoding back (O1), the Command Table (O2), the descriptors that spell no
request (O4), the request table (O5), spellings of the spec (O6), the frames' bytes (O7) and the assembler (O60). -/

namespace Sys2Proof.Machine

open Host

/-! ## The Command Table (R140, R158) -/

/-- The table is the twelve opcodes with defaults, and each OPEN one added at its end. -/
theorem commandTable_eq (c : Config) :
    commandTable c =
      (((fixedOpcodes c.opc).concat (powerDownOpcode c)).concat (releaseOpcode c)).concat (softwareResetOpcode c) :=
  rfl

/-- The two constants without a frame differ: both bound, R158 keeps them apart; else the free choice made last avoids
the other byte (log 8). -/
theorem softwareResetOpcode_ne_releaseOpcode {c : Config} (h : c.valid = true) :
    softwareResetOpcode c ≠ releaseOpcode c := by
  have hl := boundOpcodes_length c.opc
  cases hsoft : c.opc.softwareReset with
  | none =>
    have hnot : softwareResetOpcode c ∉ boundOpcodes c.opc ++ [powerDownOpcode c, releaseOpcode c] := by
      simp only [softwareResetOpcode, hsoft]
      exact pickUnused_not_mem (by simp only [List.length_append, List.length_cons, List.length_nil]; omega) _
    exact fun heq => hnot (by simp [heq])
  | some b =>
    have hb : softwareResetOpcode c = b := by simp only [softwareResetOpcode, hsoft]
    rw [hb]
    cases hrel : c.opc.releasePowerDown with
    | none =>
      have hnot : releaseOpcode c ∉ boundOpcodes c.opc ++ [powerDownOpcode c] := by
        simp only [releaseOpcode, hrel]
        exact pickUnused_not_mem (by simp only [List.length_append, List.length_cons, List.length_nil]; omega) _
      rintro rfl
      exact hnot (by simp [boundOpcodes, hsoft])
    | some r =>
      have hr : releaseOpcode c = r := by simp only [releaseOpcode, hrel]
      have hn := boundOpcodes_nodup h
      simp only [boundOpcodes, hsoft, hrel, Option.toList_some] at hn
      rw [hr]
      rintro rfl
      exact List.disjoint_of_nodup_append hn (by simp) (List.mem_singleton_self b)

theorem commandTable_nodup {c : Config} (h : c.valid = true) : (commandTable c).Nodup := by
  have hsoft : softwareResetOpcode c ∉ fixedOpcodes c.opc ++ [powerDownOpcode c] ++ [releaseOpcode c] := by
    rw [List.mem_append, List.mem_singleton, not_or]
    exact ⟨softwareResetOpcode_not_mem h, softwareResetOpcode_ne_releaseOpcode h⟩
  rw [commandTable_eq]
  exact .concat hsoft (.concat (releaseOpcode_not_mem h) (.concat (powerDownOpcode_not_mem h) (fixedOpcodes_nodup h)))

/-- Settles O2: the table's last three bytes are each new to the bytes before them; a table with a repetition, or with
another JEDEC opcode, is therefore that of no admitted configuration. -/
theorem commandTableDistinct : Obligations.CommandTableDistinct := by
  unfold Obligations.CommandTableDistinct
  refine ⟨fun c hv => ⟨rfl, commandTable_nodup hv, valid_jedec hv⟩, fun s hbad => ?_⟩
  exact step_of_not_valid fun hv => hbad ⟨commandTable_nodup hv, valid_jedec hv⟩

/-! ## Word 0 (R120) -/

theorem toNat_append_byte {w : Nat} (x : BitVec w) (b : Byte) : (x ++ b).toNat = 2 ^ 8 * x.toNat + b.toNat := by
  rw [BitVec.toNat_append, ← Nat.shiftLeft_add_eq_or_of_lt b.isLt, Nat.shiftLeft_eq, Nat.mul_comm]

theorem toNat_word0 (d : Descriptor) :
    (word0 d).toNat = d.op.toNat + 2 ^ 8 * d.sel.toNat + 2 ^ 16 * d.val.toNat + 2 ^ 24 * d.rsvd.toNat := by
  simp only [word0, toNat_append_byte]
  omega

/-- Byte `k` of word 0 is cut out where the layout puts it. -/
theorem ofWords_word0 (d : Descriptor) : ofWords (word0 d) d.a d.b d.dataIn = d := by
  have hword := toNat_word0 d
  obtain ⟨op, sel, val, rsvd, a, b, dataIn⟩ := d
  have hop := op.isLt
  have hsel := sel.isLt
  have hval := val.isLt
  have hrsvd := rsvd.isLt
  simp only [ofWords, Descriptor.mk.injEq, and_true, ← BitVec.toNat_inj, BitVec.extractLsb'_toNat,
    Nat.shiftRight_eq_div_pow, hword]
  omega

/-! ## Requests (R121–R123) -/

theorem withData_of_length {d : Descriptor} {i : Instr} (h : d.dataIn.length = d.b.toNat) :
    withData d i = .ok i := if_pos h

theorem withData_eq_ok_iff (d : Descriptor) (i j : Instr) :
    withData d i = .ok j ↔ d.dataIn.length = d.b.toNat ∧ i = j := by
  unfold withData
  split
  · next h => simp [h]
  · next h => simp [h]

/-- Settles O5: the word's value is that of its bytes at their places, and the code alone chooses the request, its
data operand's length apart. -/
theorem requestTable : Obligations.RequestTable := by
  unfold Obligations.RequestTable
  refine ⟨fun d => ⟨ofWords_word0 d, toNat_word0 d⟩, fun sel val a b data => ?_⟩
  exact ⟨rfl, rfl, rfl, rfl, rfl, rfl, rfl, fun h => withData_of_length h, fun h => withData_of_length h, rfl, rfl,
    rfl, rfl, rfl, rfl, fun h => withData_of_length h, rfl, rfl, rfl, rfl, rfl⟩

/-- The codes of the requests with data (R122). -/
def dataOps : List Byte := [0x08#8, 0x09#8, 0x21#8]

/-- The codes of the other requests (R121). -/
def plainOps : List Byte :=
  [0x01#8, 0x02#8, 0x03#8, 0x04#8, 0x05#8, 0x06#8, 0x07#8, 0x0A#8, 0x0B#8, 0x0C#8, 0x0D#8, 0x0E#8, 0x20#8, 0x22#8,
    0x23#8, 0x24#8, 0x30#8, 0x31#8]

/-- The ranges that R121 leaves unassigned hold the codes of no request. -/
theorem unassigned_iff (op : Byte) :
    (op = 0x00#8 ∨ (0x0F#8 ≤ op ∧ op ≤ 0x1F#8) ∨ (0x25#8 ≤ op ∧ op ≤ 0x2F#8) ∨ 0x32#8 ≤ op) ↔
      op ∉ plainOps ∧ op ∉ dataOps := by
  simp only [plainOps, dataOps, List.mem_cons, List.not_mem_nil, or_false, not_or]
  bv_omega

theorem illFormed_iff (d : Descriptor) :
    illFormed d ↔ d.rsvd ≠ 0x00#8 ∨ (d.op ∉ plainOps ∧ d.op ∉ dataOps) ∨
      (d.op ∈ dataOps ∧ d.dataIn.length ≠ d.b.toNat) := by
  rw [← unassigned_iff]
  simp only [illFormed, dataOps, List.mem_cons, List.not_mem_nil, or_false, or_assoc]

theorem not_illFormed_of_plain {d : Descriptor} (hrsvd : ¬d.rsvd ≠ 0x00#8) (hop : d.op ∈ plainOps) :
    ¬illFormed d := by
  have hdisjoint : ∀ op ∈ plainOps, op ∉ dataOps := by decide
  rw [illFormed_iff]
  simp only [hrsvd, hop, hdisjoint d.op hop, not_true_eq_false, false_and, or_self, not_false_eq_true]

/-- A request with data is ill-formed by its length alone (R123). -/
theorem not_illFormed_of_data {d : Descriptor} (hrsvd : ¬d.rsvd ≠ 0x00#8) (hop : d.op ∈ dataOps) :
    ¬illFormed d ↔ d.dataIn.length = d.b.toNat := by
  rw [illFormed_iff]
  simp only [hrsvd, hop, not_true_eq_false, and_false, true_and, false_or, not_not]

/-- Every descriptor that is not ill-formed spells a request, and no other does (R121, R123). -/
theorem decodeRequest_ok_iff (d : Descriptor) : (∃ i, decodeRequest d = .ok i) ↔ ¬illFormed d := by
  fun_cases decodeRequest d with
  | case1 hrsvd => exact ⟨nofun, fun h => absurd (.inl hrsvd) h⟩
  | case23 hrsvd =>
    have hunassigned : d.op ∉ plainOps ∧ d.op ∉ dataOps := by
      simp only [plainOps, dataOps, List.mem_cons, List.not_mem_nil, or_false, not_or]
      simp only [*, not_false_eq_true, and_self]
    exact ⟨nofun, fun h => absurd ((illFormed_iff d).mpr (.inr (.inl hunassigned))) h⟩
  | case9 hrsvd | case10 hrsvd | case17 hrsvd =>
    next hop =>
    rw [not_illFormed_of_data hrsvd (by simp [hop, dataOps])]
    simp only [withData_eq_ok_iff, exists_and_left, exists_eq', and_true]
  | _ hrsvd =>
    next hop => exact ⟨fun _ => not_illFormed_of_plain hrsvd (by simp [hop, plainOps]), fun _ => ⟨_, rfl⟩⟩

/-- Taking `BadRequest` writes its code and word 0 to the latch, and leaves the transcript (R309, R310). -/
theorem raise_badRequest (s : State) (w : U32) :
    s.raise false (.badRequest w) = s.endedWith 0x0A#8 w [] (.err (.badRequest w)) s.trace := rfl

theorem encoderTurn_of_illFormed {s : State} (h : illFormed s.desc) :
    encoderTurn s = .next (s.raise false (.badRequest (word0 s.desc))) := by
  rcases encoderTurn_cases s with ⟨i, hi, -⟩ | ⟨-, -, hturn⟩
  · exact absurd h ((decodeRequest_ok_iff s.desc).mp ⟨i, hi⟩)
  · exact hturn

/-- Settles O4: the codes are compared with R121's ranges once, and the encoder's turn then has one branch left. -/
theorem illegalDescriptors : Obligations.IllegalDescriptors := by
  unfold Obligations.IllegalDescriptors
  refine ⟨fun d => ?_, fun s hv hbus hreset hphase hbad => ?_⟩
  · rw [← not_exists, decodeRequest_ok_iff, not_not]
  · rw [step_of_busy hv hbus hreset hphase, encoderTurn_of_illFormed hbad, raise_badRequest]

/-! ## Decoding takes an encoding back -/

/-- A data operand that fits `B` has the length that `B` then says (R120, R123). -/
theorem dataRequest_length {data : List Byte} (h : fitsLength data = true) (op : Byte) (a : U32) :
    (dataRequest op a data).dataIn.length = (dataRequest op a data).b.toNat := by
  have hlt : data.length < 2 ^ 32 := by simpa only [fitsLength, decide_eq_true_eq] using h
  simp only [dataRequest, BitVec.toNat_ofNat, Nat.mod_eq_of_lt hlt]

theorem decode_encode_request {i : Instr} (hreq : isRequest i = true) (c : Config) (hwf : i.wf c = true) :
    decode c (encode c i) = .ok i := by
  cases i with
  | pload | ploadr | swrite => exact withData_of_length (dataRequest_length hwf _ _)
  | reset | jedec | wren | wrdi | rdreg | wrreg | berase | pexec | pread | rdata | unprot | pwrdn | sread | serase
  | scap | bstat | scanst | scannx => rfl
  | _ => cases hreq

/-- A byte that begins no frame is read as one of the two constants without a frame (R154, R155; log 16). -/
theorem decodeWire_noFrame {c : Config} {op : Byte} (h : op ∉ fixedOpcodes c.opc ++ [powerDownOpcode c]) :
    decodeWire c [op] =
      if op = releaseOpcode c then .ok .releasePowerDownWire
      else if op = softwareResetOpcode c then .ok .softwareResetWire
      else .error .unknownOpcode := by
  simp only [fixedOpcodes, List.mem_append, List.mem_cons, List.not_mem_nil, or_false, not_or] at h
  simp only [decodeWire, noOperand, h, if_false]

theorem decode_encode_wire {c : Config} (hv : c.valid = true) {i : Instr} (hwire : isRequest i = false)
    (hwf : i.wf c = true) : decode c (encode c i) = .ok i := by
  cases hf : framed i with
  | true =>
    rw [(wire_window hwire).1 c, windowSegs_of_framed c hf]
    exact decodeWire_frame hv hf hwf c.rxFill
  | false =>
    cases i with
    | releasePowerDownWire => exact (decodeWire_noFrame (releaseOpcode_not_mem hv)).trans (if_pos rfl)
    | softwareResetWire =>
      calc decodeWire c [softwareResetOpcode c]
        _ = _ := decodeWire_noFrame (softwareResetOpcode_not_mem hv)
        _ = _ := if_neg (softwareResetOpcode_ne_releaseOpcode hv)
        _ = _ := if_pos rfl
    | resetWire | jedecWire | readRegWire | writeRegWire | writeEnableWire | writeDisableWire | blockEraseWire
    | loadProgramDataWire | randomLoadProgramDataWire | programExecuteWire | pageDataReadWire | readDataWire
    | powerDownWire => cases hf
    | _ => cases hwire

/-- Settles O1: a request's code and fields come back as they were put into the descriptor; a wire command's frame is
read by its opcode, which no other command has. -/
theorem decodeEncode : Obligations.DecodeEncode := by
  unfold Obligations.DecodeEncode
  intro c i hv hwf
  cases hreq : isRequest i with
  | true => exact decode_encode_request hreq c hwf
  | false => exact decode_encode_wire hv hreq hwf

/-! ## Spellings written out in the spec (R120, R140–R152) -/

/-- Under the defaults a frame decodes whatever the OPEN opcodes are (log 7, log 8). -/
theorem decodeWire_default {i : Instr} (hf : framed i = true) (hwf : i.wf Config.default = true) :
    decodeWire Config.default (streamOf 0x00#8 (frame Config.default i)) = .ok i :=
  decodeWire_frame (by decide) hf hwf 0x00#8

/-- Settles O6: each descriptor is the encoding of its request, and each stream the frame of its command. -/
theorem specWords : Obligations.SpecWords := by
  unfold Obligations.SpecWords
  refine ⟨?_, ?_, ?_, ?_, ?_, ?_, ?_, ?_⟩
  · exact decode_encode_request (i := .wrreg 0xA0#8 0x04#8) rfl Config.default rfl
  · exact decode_encode_request (i := .berase 64#32) rfl Config.default rfl
  · exact decode_encode_request (i := .serase 0#32 131072#32) rfl Config.default rfl
  · exact decode_encode_request (i := .scannx) rfl Config.default rfl
  · exact decodeWire_default (i := .blockEraseWire 64#24) rfl rfl
  · exact decodeWire_default (i := .readRegWire 0xC0#8) rfl rfl
  · exact decodeWire_default (i := .loadProgramDataWire 0#24 [0xAA#8, 0x55#8]) rfl rfl
  · exact decodeWire_default (i := .readDataWire 2048#24 1#32) rfl rfl

/-! ## The frames' bytes (R141–R153) -/

/-- What is only sent keeps nothing. -/
theorem keptOf_write (bytes m : List Byte) : keptOf [.w bytes] m = [] := rfl

/-- What is exchanged keeps a byte for each byte sent. -/
theorem keptOf_exchange (bytes m : List Byte) : keptOf [.x bytes] m = m.take bytes.length := List.append_nil _

/-- A read keeps what follows the bytes sent before it. -/
theorem keptOf_write_read (bytes m : List Byte) (n : Nat) :
    keptOf [.w bytes, .r n] m = (m.drop bytes.length).take n := List.append_nil _

theorem streamOf_exchange (fill : Byte) (bytes : List Byte) : streamOf fill [.x bytes] = bytes := List.append_nil bytes

theorem streamOf_write_read (fill : Byte) (bytes : List Byte) (n : Nat) :
    streamOf fill [.w bytes, .r n] = bytes ++ List.replicate n fill :=
  congrArg (bytes ++ ·) (List.append_nil _)

/-- `READ_DATA` sends its opcode, the column and a dummy byte before it reads (R152). -/
theorem readDataHead_length (c : Config) (col : U24) :
    (c.opc.readData :: (colStream c col ++ [dummyByte])).length = 2 + c.colBytes := by
  simp only [List.length_cons, List.length_append, List.length_nil, colStream_length]
  omega

/-- Settles O7: a frame is one write, one exchange, or a write and then a read. -/
theorem frameStreams : Obligations.FrameStreams := by
  unfold Obligations.FrameStreams
  intro c hv sel val fill page col data m len
  refine ⟨⟨streamOf_write _ _, keptOf_write _ _⟩, ⟨?_, keptOf_write_read _ _ _⟩,
    ⟨streamOf_exchange _ _, keptOf_exchange _ _⟩, ⟨streamOf_write _ _, keptOf_write _ _⟩,
    ⟨streamOf_write _ _, keptOf_write _ _⟩, ⟨streamOf_write _ _, keptOf_write _ _⟩,
    ⟨streamOf_write _ _, keptOf_write _ _⟩, ⟨streamOf_write _ _, keptOf_write _ _⟩,
    ⟨streamOf_write _ _, keptOf_write _ _⟩, ⟨streamOf_write _ _, keptOf_write _ _⟩,
    ⟨streamOf_write _ _, keptOf_write _ _⟩, ⟨streamOf_write_read _ _ _, ?_⟩,
    ⟨streamOf_write _ _, keptOf_write _ _⟩⟩
  · rw [← valid_jedec hv]
    exact streamOf_write_read _ _ _
  · rw [← readDataHead_length c col]
    exact keptOf_write_read _ _ _

/-! ## The assembler (R125, R126) -/

theorem assemble_of_one {c : Config} {l : Line} {i : Instr} {d : Descriptor} (hl : lineRequests l = [i])
    (hd : requestDescriptor c i = some d) : assemble c l = [⟨d, false⟩] := by
  simp only [assemble, hl, List.filterMap_cons, List.filterMap_nil, hd, chainItems, List.map_nil]

/-- The second request of an expansion is chained to the first (R126). -/
theorem assemble_of_two {c : Config} {l : Line} {i j : Instr} {d e : Descriptor} (hl : lineRequests l = [i, j])
    (hd : requestDescriptor c i = some d) (he : requestDescriptor c j = some e) :
    assemble c l = [⟨d, false⟩, ⟨e, true⟩] := by
  simp only [assemble, hl, List.filterMap_cons, List.filterMap_nil, hd, he, chainItems, List.map_cons, List.map_nil]

/-- Settles O60: the three status lines are one request each, and the other two pseudo-instructions a pair. -/
theorem assembler : Obligations.Assembler := by
  unfold Obligations.Assembler
  intro c page col len data
  exact ⟨assemble_of_one rfl rfl, assemble_of_one rfl rfl, assemble_of_one rfl rfl, assemble_of_two rfl rfl rfl,
    assemble_of_two rfl rfl rfl⟩

end Sys2Proof.Machine
end

section
/-! PROOFS of 40_address_codecs: the floor to a page (O8), what the block generator yields (O9, O10), and the codecs
as arithmetic (O11). -/

namespace Sys2Proof.Machine

/-! ## Byte addresses, pages and blocks as numbers (R170–R174, R179, R181) -/

@[simp] theorem toNat_fromByteAddress (off : U32) : (fromByteAddress off).toNat = off.toNat / 2048 := by
  rw [fromByteAddress, BitVec.toNat_ushiftRight, Nat.shiftRight_eq_div_pow]

@[simp] theorem toNat_toByteAddress (p : U32) : (toByteAddress p).toNat = p.toNat * 2048 % 2 ^ 32 := by
  rw [toByteAddress, BitVec.toNat_shiftLeft, Nat.shiftLeft_eq]

@[simp] theorem toNat_columnOf (off : U32) : (columnOf off).toNat = off.toNat % 2048 :=
  BitVec.toNat_setWidth 11 off

@[simp] theorem toNat_blockOf (p : U32) : (blockOf p).toNat = p.toNat / 64 := by
  rw [blockOf, BitVec.toNat_ushiftRight, Nat.shiftRight_eq_div_pow]

@[simp] theorem toNat_firstPage (b : U32) : (firstPage b).toNat = b.toNat * 64 % 2 ^ 32 := by
  rw [firstPage, BitVec.toNat_shiftLeft, Nat.shiftLeft_eq]

@[simp] theorem toNat_pageInBlock (p : U32) : (pageInBlock p).toNat = p.toNat % 64 :=
  BitVec.toNat_setWidth 6 p

/-- Flooring never wraps: the floor of a word is a word. -/
theorem toNat_firstPage_blockOf (p : U32) : (firstPage (blockOf p)).toNat = p.toNat - p.toNat % 64 := by
  rw [toNat_firstPage, toNat_blockOf]
  omega

@[simp] theorem toNat_incrementPage (cur : U32) : (incrementPage cur).2.toNat = (cur.toNat + 1) % 2 ^ 32 :=
  BitVec.toNat_add cur 1#32

@[simp] theorem toNat_incrementBlock (cur : U32) : (incrementBlock cur).2.toNat = (cur.toNat + 64) % 2 ^ 32 :=
  BitVec.toNat_add cur 64#32

theorem toNat_iterate_incrementBlock (cur : U32) (n : Nat) :
    ((fun cur => (incrementBlock cur).2)^[n] cur).toNat = (cur.toNat + 64 * n) % 2 ^ 32 := by
  induction n with
  | zero => exact (Nat.mod_eq_of_lt cur.isLt).symm
  | succ n ih =>
    rw [Function.iterate_succ_apply', toNat_incrementBlock, ih]
    omega

theorem pageBlockAligned_iff (p : U32) : pageBlockAligned p = true ↔ p.toNat % 64 = 0 := by
  rw [pageBlockAligned, beq_iff_eq, ← BitVec.toNat_inj, toNat_pageInBlock]
  rfl

theorem offsetBlockAligned_iff (off : U32) : offsetBlockAligned off = true ↔ off.toNat % 131072 = 0 :=
  beq_iff_eq

/-- A byte offset starts a block when it starts a page and that page starts a block (R179). -/
theorem offsetBlockAligned_eq (off : U32) :
    offsetBlockAligned off = (pageBlockAligned (fromByteAddress off) && decide (off.toNat % 2048 = 0)) := by
  rw [Bool.eq_iff_iff, Bool.and_eq_true, offsetBlockAligned_iff, pageBlockAligned_iff, toNat_fromByteAddress,
    decide_eq_true_iff]
  omega

/-- Settles O8: the page's address is below the offset, so turning it back does not wrap. -/
theorem floorRoundTrip : Obligations.FloorRoundTrip := by
  unfold Obligations.FloorRoundTrip
  intro x
  rw [toNat_toByteAddress, toNat_fromByteAddress]
  omega

/-! ## Addresses on the wire (R175, R176) -/

/-- Cutting a word to a width keeps the bytes below that width. -/
theorem extractLsb'_setWidth_of_le {w v lo len : Nat} (x : BitVec w) (h : lo + len ≤ v) :
    (x.setWidth v).extractLsb' lo len = x.extractLsb' lo len := by
  ext i hi
  have hv : lo + i < v := by omega
  simp [hv]

theorem serPage_eq (p : U32) :
    serPage p = [p.extractLsb' 16 8, p.extractLsb' 8 8, p.extractLsb' 0 8] := by
  simp [serPage, be3, wirePage, extractLsb'_setWidth_of_le]

theorem serCol_two {c : Config} (h : c.colWidth = .two) (col : U32) :
    serCol c col = [col.extractLsb' 8 8, col.extractLsb' 0 8] := by
  simp [serCol, colStream, wireCol, h, be2, extractLsb'_setWidth_of_le]

theorem serCol_three {c : Config} (h : c.colWidth = .three) (col : U32) :
    serCol c col = [col.extractLsb' 16 8, col.extractLsb' 8 8, col.extractLsb' 0 8] := by
  simp [serCol, colStream, wireCol, h, be3, extractLsb'_setWidth_of_le]

/-- Settles O11, codec by codec. -/
theorem addressCodecs : Obligations.AddressCodecs := by
  unfold Obligations.AddressCodecs
  refine ⟨fun off => ⟨toNat_fromByteAddress off, toNat_columnOf off⟩, toNat_toByteAddress, serPage_eq,
    fun c col h => serCol_two h col, fun c col h => serCol_three h col,
    fun cur => ⟨rfl, toNat_incrementPage cur⟩, fun cur => ⟨rfl, toNat_incrementBlock cur⟩, fun n => ?_,
    fun p => ⟨toNat_firstPage_blockOf p, toNat_pageInBlock p⟩, offsetBlockAligned_eq⟩
  rw [toNat_iterate_incrementBlock, BitVec.toNat_ofNat, Nat.zero_mod, Nat.zero_add]

/-! ## One answer of the block generator (R177) -/

theorem blocksNext_done {g : BlockGen} (h : g.done = true) : blocksNext g = (none, { g with done := true }) :=
  if_pos (by rw [h, Bool.true_or])

theorem blocksNext_past {start last : U32} (h : last.toNat < start.toNat) :
    blocksNext (blocks start last) = (none, { blocks start last with done := true }) :=
  if_pos (by rw [Bool.or_eq_true, decide_eq_true_iff]; exact .inr h)

/-- Inside its bound the generator answers its cursor; it is then done if the next address would wrap. -/
theorem blocksNext_of_le {start last : U32} (h : start.toNat ≤ last.toNat) :
    blocksNext (blocks start last) =
      if 2 ^ 32 ≤ start.toNat + 64 then (some start, { blocks start last with done := true })
      else (some start, blocks (start + 64#32) last) :=
  if_neg (show ¬(false || decide (last.toNat < start.toNat)) = true by simpa using h)

/-- Only a generator that is then done answers `None`. -/
theorem done_of_blocksNext_none {g : BlockGen} (h : (blocksNext g).1 = none) : (blocksNext g).2.done = true := by
  unfold blocksNext at h ⊢
  split
  · rfl
  · next hlive =>
    rw [if_neg hlive] at h
    split at h <;> cases h

/-! ## The generator's answers (R177, R178) -/

theorem blocksTake_of_none {g : BlockGen} (h : (blocksNext g).1 = none) (n : Nat) : blocksTake n g = [] := by
  cases n with
  | zero => rfl
  | succ n => rw [blocksTake, show blocksNext g = (none, (blocksNext g).2) from Prod.ext h rfl]

theorem blocksTake_succ {g g' : BlockGen} {p : U32} (h : blocksNext g = (some p, g')) (n : Nat) :
    blocksTake (n + 1) g = p :: blocksTake n g' := by
  rw [blocksTake, h]

/-- How many blocks begin at `start`, `start + 64`, … up to `last`: none when `last` is below `start`. -/
def blockCount (start last : Nat) : Nat := (last + 64 - start) / 64

theorem blockCount_of_lt {start last : Nat} (h : last < start) : blockCount start last = 0 := by
  unfold blockCount
  omega

theorem blockCount_of_le {start last : Nat} (h : start ≤ last) :
    blockCount start last = (last - start) / 64 + 1 := by
  unfold blockCount
  omega

theorem blockCount_succ {start last : Nat} (h : start ≤ last) :
    blockCount start last = blockCount (start + 64) last + 1 := by
  unfold blockCount
  omega

/-- `start + 64i` for the first `k` values of `i` (R178). -/
def blockAddresses (start k : Nat) : List Nat := (List.range k).map fun i => start + 64 * i

theorem blockAddresses_succ (start k : Nat) :
    blockAddresses start (k + 1) = start :: blockAddresses (start + 64) k := by
  have hshift : ∀ i, start + 64 * (i + 1) = start + 64 + 64 * i := fun i => by omega
  simp [blockAddresses, List.range_succ_eq_map, hshift]

theorem blockAddresses_pairwise_lt (start k : Nat) : (blockAddresses start k).Pairwise (· < ·) :=
  List.pairwise_map.mpr (List.pairwise_lt_range.imp fun h => by omega)

/-- For every pair of bounds the generator yields the addresses up to its bound, and no more: where the next address
would wrap, the bound is less than a block away. -/
theorem map_toNat_blocksTake (last : U32) (n : Nat) : ∀ start : U32,
    (blocksTake n (blocks start last)).map BitVec.toNat =
      blockAddresses start.toNat (min n (blockCount start.toNat last.toNat)) := by
  induction n with
  | zero => intro start; rw [Nat.zero_min]; rfl
  | succ n ih =>
    intro start
    rcases Nat.lt_or_ge last.toNat start.toNat with hpast | hin
    · rw [blocksTake_of_none (by rw [blocksNext_past hpast]), blockCount_of_lt hpast, Nat.min_zero]
      rfl
    · have hnext := blocksNext_of_le hin
      rw [blockCount_succ hin, Nat.succ_min_succ, blockAddresses_succ]
      split at hnext
      · next hwrap =>
        have hlast : last.toNat < start.toNat + 64 := Nat.lt_of_lt_of_le last.isLt hwrap
        rw [blocksTake_succ hnext, blocksTake_of_none (by rw [blocksNext_done rfl]), blockCount_of_lt hlast,
          Nat.min_zero]
        rfl
      · next hroom =>
        have hstep : (start + 64#32).toNat = start.toNat + 64 := BitVec.toNat_add_of_lt (Nat.lt_of_not_le hroom)
        rw [blocksTake_succ hnext, List.map_cons, ih, hstep]

/-- Settles O9: the answers are the addresses up to the bound, of which the surplus `n` asks for more. -/
theorem generatorCount : Obligations.GeneratorCount := by
  unfold Obligations.GeneratorCount
  refine fun start last => ⟨fun hle _ n => ?_, fun hlt n => ?_⟩
  · rw [map_toNat_blocksTake, blockCount_of_le hle, Nat.min_eq_right (Nat.le_add_right _ n)]
    rfl
  · exact blocksTake_of_none (by rw [blocksNext_past hlt]) n

/-- There are 2^26 blocks of pages in 32 bits. -/
theorem blockCount_le (start last : U32) : blockCount start.toNat last.toNat ≤ 2 ^ 26 := by
  have := last.isLt
  unfold blockCount
  omega

theorem length_blocksTake (start last : U32) (n : Nat) :
    (blocksTake n (blocks start last)).length = min n (blockCount start.toNat last.toNat) := by
  rw [← List.length_map (f := BitVec.toNat), map_toNat_blocksTake, blockAddresses, List.length_map,
    List.length_range]

theorem exists_index_of_mem_blocksTake {start last p : U32} {n : Nat} (h : p ∈ blocksTake n (blocks start last)) :
    ∃ i < blockCount start.toNat last.toNat, p.toNat = start.toNat + 64 * i := by
  have hp := List.mem_map_of_mem (f := BitVec.toNat) h
  rw [map_toNat_blocksTake, blockAddresses, List.mem_map] at hp
  obtain ⟨i, hi, hval⟩ := hp
  exact ⟨i, (lt_min_iff.mp (List.mem_range.mp hi)).2, hval.symm⟩

theorem bounds_of_mem_blocksTake {start last p : U32} {n : Nat} (h : p ∈ blocksTake n (blocks start last)) :
    start.toNat ≤ p.toNat ∧ p.toNat ≤ last.toNat ∧ p.toNat % 64 = start.toNat % 64 := by
  obtain ⟨i, hi, hval⟩ := exists_index_of_mem_blocksTake h
  unfold blockCount at hi
  omega

/-- Settles O10: the answers are some of the addresses up to the bound, and a generator that has answered `None` is
done. -/
theorem generatorFinite : Obligations.GeneratorFinite := by
  unfold Obligations.GeneratorFinite
  refine ⟨fun start last n => ⟨?_, ?_, fun p hp => bounds_of_mem_blocksTake hp⟩, fun g hnone => ?_⟩
  · rw [length_blocksTake]
    exact (Nat.min_le_right _ _).trans (blockCount_le start last)
  · rw [map_toNat_blocksTake]
    exact blockAddresses_pairwise_lt _ _
  · rw [blocksNext_done (done_of_blocksNext_none hnone)]

end Sys2Proof.Machine
end

section
/-! PROOFS of 41_status_decoder: the mask, `get` and `set` of a field (O12), the registers' decoders and encoders (O13,
O14), the block-protect field cleared (O15) and the decoded identity (O16). -/

namespace Sys2Proof.Machine

/-! ## A field's mask, `get` and `set` as numbers (R200) -/

theorem toNat_fieldMask {f : Field} (hle : f.lo ≤ f.hi) (hhi : f.hi ≤ 7) :
    (fieldMask f).toNat = (2 ^ (f.hi - f.lo + 1) - 1) * 2 ^ f.lo := by
  refine Nat.eq_of_testBit_eq fun i => ?_
  rw [BitVec.testBit_toNat, getLsbD_fieldMask hle hhi, Nat.testBit_mul_two_pow, Nat.testBit_two_pow_sub_one,
    fieldHolds]
  rw [Bool.eq_iff_iff]
  simp only [Bool.and_eq_true, decide_eq_true_eq]
  omega

/-- `get` moves a field's bits down to bit 0, and nothing else. -/
theorem getLsbD_fieldGet {f : Field} (hle : f.lo ≤ f.hi) (hhi : f.hi ≤ 7) (b : Byte) (j : Nat) :
    (fieldGet b f).getLsbD j = (decide (j < f.hi - f.lo + 1) && b.getLsbD (f.lo + j)) := by
  have hmask : fieldHolds f (f.lo + j) = decide (j < f.hi - f.lo + 1) := by
    rw [Bool.eq_iff_iff, fieldHolds_iff, decide_eq_true_iff]
    omega
  rw [fieldGet, BitVec.getLsbD_ushiftRight, BitVec.getLsbD_and, getLsbD_fieldMask hle hhi, hmask, Bool.and_comm]

theorem toNat_fieldGet {f : Field} (hle : f.lo ≤ f.hi) (hhi : f.hi ≤ 7) (b : Byte) :
    (fieldGet b f).toNat = b.toNat / 2 ^ f.lo % 2 ^ (f.hi - f.lo + 1) := by
  refine Nat.eq_of_testBit_eq fun j => ?_
  rw [BitVec.testBit_toNat, getLsbD_fieldGet hle hhi, Nat.testBit_mod_two_pow, Nat.testBit_div_two_pow,
    BitVec.testBit_toNat, Nat.add_comm j]

/-- What `get` reads after `set` is the value, cut to the field's width. -/
theorem toNat_fieldGet_fieldSet {f : Field} (hle : f.lo ≤ f.hi) (hhi : f.hi ≤ 7) (b v : Byte) :
    (fieldGet (fieldSet b f v) f).toNat = v.toNat % 2 ^ (f.hi - f.lo + 1) := by
  refine Nat.eq_of_testBit_eq fun j => ?_
  rw [BitVec.testBit_toNat, getLsbD_fieldGet hle hhi, Nat.testBit_mod_two_pow, BitVec.testBit_toNat]
  by_cases hj : j < f.hi - f.lo + 1
  · have hholds : fieldHolds f (f.lo + j) = true := (fieldHolds_iff f _).mpr (by omega)
    rw [getLsbD_fieldSet hle hhi b v (by omega), if_pos hholds, Nat.add_sub_cancel_left]
  · rw [decide_eq_false hj, Bool.false_and, Bool.false_and]

/-- `set` leaves every bit outside the field. -/
theorem getLsbD_fieldSet_outside {f : Field} (hle : f.lo ≤ f.hi) (hhi : f.hi ≤ 7) (b v : Byte) {i : Nat}
    (hout : i < f.lo ∨ f.hi < i) : (fieldSet b f v).getLsbD i = b.getLsbD i := by
  by_cases hi : i < 8
  · have hholds : ¬fieldHolds f i = true := fun h => by
      have := (fieldHolds_iff f i).mp h
      omega
    rw [getLsbD_fieldSet hle hhi b v hi, if_neg hholds]
  · rw [BitVec.getLsbD_of_ge _ _ (Nat.le_of_not_lt hi), BitVec.getLsbD_of_ge _ _ (Nat.le_of_not_lt hi)]

/-- Settles O12: `get` and `set` are the model's definitions; the laws compare numbers bit by bit. -/
theorem fieldLaws : Obligations.FieldLaws := by
  unfold Obligations.FieldLaws
  intro b v f hle hhi
  exact ⟨toNat_fieldMask hle hhi, rfl, rfl, toNat_fieldGet hle hhi b, toNat_fieldGet_fieldSet hle hhi b v,
    fun _ hout => getLsbD_fieldSet_outside hle hhi b v hout⟩

/-! ## Encoding what was decoded: the masks of a register's fields make up the byte (R202, R205, R207) -/

/-- A field's value placed: its bits, moved up to the field. -/
theorem getLsbD_fieldPlace {f : Field} {w : Nat} (h : f.fits w = true) (v : BitVec w) (i : Nat) :
    (fieldPlace v f).getLsbD i = (fieldHolds f i && v.getLsbD (i - f.lo)) := by
  obtain ⟨hle, hhi, hwidth⟩ := (fits_iff f w).mp h
  simp only [fieldPlace, BitVec.getLsbD_shiftLeft, BitVec.getLsbD_setWidth]
  by_cases hholds : fieldHolds f i = true
  · obtain ⟨hlo, hup⟩ := (fieldHolds_iff f i).mp hholds
    simp [hholds, show i < 8 by omega, show ¬i < f.lo by omega, show i - f.lo < 8 by omega]
  · have hout : i < f.lo ∨ w ≤ i - f.lo := by
      rw [fieldHolds_iff] at hholds
      omega
    rcases hout with hbelow | habove
    · simp [hholds, hbelow]
    · simp [hholds, BitVec.getLsbD_of_ge v _ habove]

theorem fieldPlace_fieldValue {f : Field} {w : Nat} (h : f.fits w = true) (b : Byte) :
    fieldPlace (fieldValue w b f) f = b &&& fieldMask f := by
  obtain ⟨hle, hhi, hwidth⟩ := (fits_iff f w).mp h
  refine BitVec.eq_of_getLsbD_eq fun i _ => ?_
  rw [getLsbD_fieldPlace h, BitVec.getLsbD_and, getLsbD_fieldMask hle hhi]
  by_cases hholds : fieldHolds f i = true
  · obtain ⟨hlo, hup⟩ := (fieldHolds_iff f i).mp hholds
    rw [getLsbD_fieldValue h b (by omega), Nat.add_sub_cancel' hlo, Bool.and_comm]
  · rw [Bool.not_eq_true] at hholds
    rw [hholds, Bool.false_and, Bool.and_false]

/-- The bits that some field of a list holds. -/
def masksOf (fs : List Field) : Byte := fs.foldr (fun f m => fieldMask f ||| m) 0#8

theorem getLsbD_masksOf {fs : List Field} (h : ∀ f ∈ fs, f.lo ≤ f.hi ∧ f.hi ≤ 7) (i : Nat) :
    (masksOf fs).getLsbD i = fs.any fun f => fieldHolds f i := by
  induction fs with
  | nil => exact BitVec.getLsbD_zero
  | cons f fs ih =>
    obtain ⟨⟨hle, hhi⟩, hrest⟩ := List.forall_mem_cons.mp h
    rw [List.any_cons, ← ih hrest, ← getLsbD_fieldMask hle hhi]
    exact BitVec.getLsbD_or

/-- Fields that cover the byte leave no bit out (R201 "no padding"). -/
theorem masksOf_of_cover {fs : List Field} (hin : ∀ f ∈ fs, f.lo ≤ f.hi ∧ f.hi ≤ 7) (h : coverByte fs = true) :
    masksOf fs = BitVec.allOnes 8 := by
  refine BitVec.eq_of_getLsbD_eq fun i hi => ?_
  have hone : (fs.filter fun f => fieldHolds f i).length = 1 :=
    beq_iff_eq.mp (List.all_eq_true.mp h i (List.mem_range.mpr hi))
  obtain ⟨f, hf⟩ := List.exists_mem_of_length_pos (hone ▸ Nat.one_pos)
  rw [getLsbD_masksOf hin, BitVec.getLsbD_allOnes, decide_eq_true hi]
  exact List.any_eq_true.mpr ⟨f, List.mem_filter.mp hf⟩

theorem bounds_of_fits {f : Field} {w : Nat} (h : f.fits w = true) : f.lo ≤ f.hi ∧ f.hi ≤ 7 := by
  obtain ⟨hle, hhi, -⟩ := (fits_iff f w).mp h
  exact ⟨hle, hhi⟩

/-- What an admitted layout's Status2 fields are: each of its width, and no bit in two of them (R51, R204). -/
theorem layout_ok_sr2 {l : SrLayout} (h : l.ok = true) :
    (l.otpL.fits 1 = true ∧ l.otpE.fits 1 = true ∧ l.sr1L.fits 1 = true ∧ l.eccE.fits 1 = true ∧
      l.buf.fits 1 = true ∧ l.rsvd2.fits 3 = true) ∧
    [l.otpL, l.otpE, l.sr1L, l.eccE, l.buf, l.rsvd2].Pairwise
      fun f g => ∀ i < 8, ¬(fieldHolds f i = true ∧ fieldHolds g i = true) := by
  simp only [SrLayout.ok, Bool.and_eq_true] at h
  exact ⟨by tauto, pairwise_of_cover (by tauto)⟩

/-- Each register of an admitted layout is covered by its fields (R201). -/
theorem layout_ok_cover {l : SrLayout} (h : l.ok = true) :
    coverByte [l.srp0, l.bp, l.tb, l.wpE, l.srp1] = true ∧
    coverByte [l.otpL, l.otpE, l.sr1L, l.eccE, l.buf, l.rsvd2] = true ∧
    coverByte [l.rsvd3, l.lutF, l.ecc, l.pFail, l.eFail, l.wel, l.busy] = true := by
  simp only [SrLayout.ok, Bool.and_eq_true] at h
  tauto

theorem encodeSr1_decodeSr1 {l : SrLayout} (h : l.ok = true) (b : Byte) : encodeSr1 l (decodeSr1 l b) = b := by
  obtain ⟨⟨h1, h2, h3, h4, h5⟩, -⟩ := layout_ok_sr1 h
  obtain ⟨hcover, -, -⟩ := layout_ok_cover h
  have hmasks : encodeSr1 l (decodeSr1 l b) = b &&& masksOf [l.srp0, l.bp, l.tb, l.wpE, l.srp1] := by
    simp only [encodeSr1, decodeSr1, fieldPlace_fieldValue, h1, h2, h3, h4, h5, masksOf, List.foldr,
      BitVec.or_zero, BitVec.and_or_distrib_left, BitVec.or_assoc]
  have hin : ∀ f ∈ [l.srp0, l.bp, l.tb, l.wpE, l.srp1], f.lo ≤ f.hi ∧ f.hi ≤ 7 := by
    simp [bounds_of_fits h1, bounds_of_fits h2, bounds_of_fits h3, bounds_of_fits h4, bounds_of_fits h5]
  rw [hmasks, masksOf_of_cover hin hcover, BitVec.and_allOnes]

theorem encodeSr2_decodeSr2 {l : SrLayout} (h : l.ok = true) (b : Byte) : encodeSr2 l (decodeSr2 l b) = b := by
  obtain ⟨⟨h1, h2, h3, h4, h5, h6⟩, -⟩ := layout_ok_sr2 h
  obtain ⟨-, hcover, -⟩ := layout_ok_cover h
  have hmasks : encodeSr2 l (decodeSr2 l b) =
      b &&& masksOf [l.otpL, l.otpE, l.sr1L, l.eccE, l.buf, l.rsvd2] := by
    simp only [encodeSr2, decodeSr2, fieldPlace_fieldValue, h1, h2, h3, h4, h5, h6, masksOf, List.foldr,
      BitVec.or_zero, BitVec.and_or_distrib_left, BitVec.or_assoc]
  have hin : ∀ f ∈ [l.otpL, l.otpE, l.sr1L, l.eccE, l.buf, l.rsvd2], f.lo ≤ f.hi ∧ f.hi ≤ 7 := by
    simp [bounds_of_fits h1, bounds_of_fits h2, bounds_of_fits h3, bounds_of_fits h4, bounds_of_fits h5,
      bounds_of_fits h6]
  rw [hmasks, masksOf_of_cover hin hcover, BitVec.and_allOnes]

theorem encodeSr3_decodeSr3 {l : SrLayout} (h : l.ok = true) (b : Byte) : encodeSr3 l (decodeSr3 l b) = b := by
  obtain ⟨⟨h1, h2, h3, h4, h5, h6, h7⟩, -⟩ := layout_ok_sr3 h
  obtain ⟨-, -, hcover⟩ := layout_ok_cover h
  have hmasks : encodeSr3 l (decodeSr3 l b) =
      b &&& masksOf [l.rsvd3, l.lutF, l.ecc, l.pFail, l.eFail, l.wel, l.busy] := by
    simp only [encodeSr3, decodeSr3, fieldPlace_fieldValue, h1, h2, h3, h4, h5, h6, h7, masksOf, List.foldr,
      BitVec.or_zero, BitVec.and_or_distrib_left, BitVec.or_assoc]
  have hin : ∀ f ∈ [l.rsvd3, l.lutF, l.ecc, l.pFail, l.eFail, l.wel, l.busy], f.lo ≤ f.hi ∧ f.hi ≤ 7 := by
    simp [bounds_of_fits h1, bounds_of_fits h2, bounds_of_fits h3, bounds_of_fits h4, bounds_of_fits h5,
      bounds_of_fits h6, bounds_of_fits h7]
  rw [hmasks, masksOf_of_cover hin hcover, BitVec.and_allOnes]

/-! ## Decoding what was encoded: each field reads its own value and nothing of the others (R202, R205, R207) -/

theorem fieldValue_or (w : Nat) (x y : Byte) (f : Field) :
    fieldValue w (x ||| y) f = fieldValue w x f ||| fieldValue w y f := by
  simp only [fieldValue, fieldGet, BitVec.and_or_distrib_right, BitVec.ushiftRight_or_distrib, BitVec.setWidth_or]

theorem fieldValue_fieldPlace_same {f : Field} {w : Nat} (h : f.fits w = true) (v : BitVec w) :
    fieldValue w (fieldPlace v f) f = v := by
  refine BitVec.eq_of_getLsbD_eq fun j hj => ?_
  have hholds : fieldHolds f (f.lo + j) = true := by
    obtain ⟨hle, hhi, hwidth⟩ := (fits_iff f w).mp h
    exact (fieldHolds_iff f _).mpr (by omega)
  rw [getLsbD_fieldValue h _ hj, getLsbD_fieldPlace h, hholds, Bool.true_and, Nat.add_sub_cancel_left]

/-- No bit of a byte is in both fields. -/
def FieldsApart (f g : Field) : Prop :=
  ∀ i < 8, ¬(fieldHolds f i = true ∧ fieldHolds g i = true)

theorem FieldsApart.symm {f g : Field} (h : FieldsApart f g) : FieldsApart g f :=
  fun i hi hc => h i hi hc.symm

theorem fieldValue_fieldPlace_apart {f g : Field} {u w : Nat} (hf : f.fits u = true) (hg : g.fits w = true)
    (hd : FieldsApart f g) (v : BitVec u) : fieldValue w (fieldPlace v f) g = 0#w := by
  refine BitVec.eq_of_getLsbD_eq fun j hj => ?_
  obtain ⟨hle, hhi, hwidth⟩ := (fits_iff g w).mp hg
  have hholds : fieldHolds g (g.lo + j) = true := (fieldHolds_iff g _).mpr (by omega)
  have hother : fieldHolds f (g.lo + j) = false :=
    Bool.eq_false_iff.mpr fun hc => hd _ (by omega) ⟨hc, hholds⟩
  rw [getLsbD_fieldValue hg _ hj, getLsbD_fieldPlace hf, hother, Bool.false_and, BitVec.getLsbD_zero]

/-- Fields that are pairwise apart are so in both orders. -/
theorem apart_both {fs : List Field} (h : fs.Pairwise FieldsApart) :
    fs.Pairwise fun f g => FieldsApart f g ∧ FieldsApart g f :=
  h.imp fun hfg => ⟨hfg, hfg.symm⟩

theorem decodeSr1_encodeSr1 {l : SrLayout} (h : l.ok = true) (r : Status1) : decodeSr1 l (encodeSr1 l r) = r := by
  obtain ⟨⟨h1, h2, h3, h4, h5⟩, hd⟩ := layout_ok_sr1 h
  have hapart := apart_both hd
  simp only [List.pairwise_cons, List.forall_mem_cons] at hapart
  simp [decodeSr1, encodeSr1, fieldValue_or, fieldValue_fieldPlace_same, fieldValue_fieldPlace_apart, h1, h2, h3,
    h4, h5, hapart]

theorem decodeSr2_encodeSr2 {l : SrLayout} (h : l.ok = true) (r : Status2) : decodeSr2 l (encodeSr2 l r) = r := by
  obtain ⟨⟨h1, h2, h3, h4, h5, h6⟩, hd⟩ := layout_ok_sr2 h
  have hapart := apart_both hd
  simp only [List.pairwise_cons, List.forall_mem_cons] at hapart
  simp [decodeSr2, encodeSr2, fieldValue_or, fieldValue_fieldPlace_same, fieldValue_fieldPlace_apart, h1, h2, h3,
    h4, h5, h6, hapart]

theorem decodeSr3_encodeSr3 {l : SrLayout} (h : l.ok = true) (r : Status3) : decodeSr3 l (encodeSr3 l r) = r := by
  obtain ⟨⟨h1, h2, h3, h4, h5, h6, h7⟩, hd⟩ := layout_ok_sr3 h
  have hapart := apart_both hd
  simp only [List.pairwise_cons, List.forall_mem_cons] at hapart
  simp [decodeSr3, encodeSr3, fieldValue_or, fieldValue_fieldPlace_same, fieldValue_fieldPlace_apart, h1, h2, h3,
    h4, h5, h6, h7, hapart]

/-- Settles O13, register by register. -/
theorem statusRoundTrip : Obligations.StatusRoundTrip := by
  unfold Obligations.StatusRoundTrip
  exact fun l h => ⟨fun b => ⟨encodeSr1_decodeSr1 h b, encodeSr2_decodeSr2 h b, encodeSr3_decodeSr3 h b⟩,
    decodeSr1_encodeSr1 h, decodeSr2_encodeSr2 h, decodeSr3_encodeSr3 h⟩

/-! ## The default layout (R201, R204, R206; log 7) -/

/-- A field's value is the bits of the byte from the field's lowest one. -/
theorem fieldValue_eq_extractLsb' {f : Field} {w : Nat} (h : f.fits w = true) (b : Byte) :
    fieldValue w b f = b.extractLsb' f.lo w := by
  refine BitVec.eq_of_getLsbD_eq fun j hj => ?_
  rw [getLsbD_fieldValue h b hj, BitVec.getLsbD_extractLsb', decide_eq_true hj, Bool.true_and]

theorem layout_default_ok : SrLayout.ok {} = true := by decide

theorem decodeSr1_eq_extractLsb' {l : SrLayout} (h : l.ok = true) (b : Byte) :
    decodeSr1 l b = { srp0 := b.extractLsb' l.srp0.lo 1, bp := b.extractLsb' l.bp.lo 4,
                      tb := b.extractLsb' l.tb.lo 1, wpE := b.extractLsb' l.wpE.lo 1,
                      srp1 := b.extractLsb' l.srp1.lo 1 } := by
  obtain ⟨⟨h1, h2, h3, h4, h5⟩, -⟩ := layout_ok_sr1 h
  simp only [decodeSr1, fieldValue_eq_extractLsb', h1, h2, h3, h4, h5]

theorem decodeSr2_eq_extractLsb' {l : SrLayout} (h : l.ok = true) (b : Byte) :
    decodeSr2 l b = { otpL := b.extractLsb' l.otpL.lo 1, otpE := b.extractLsb' l.otpE.lo 1,
                      sr1L := b.extractLsb' l.sr1L.lo 1, eccE := b.extractLsb' l.eccE.lo 1,
                      buf := b.extractLsb' l.buf.lo 1, rsvd2 := b.extractLsb' l.rsvd2.lo 3 } := by
  obtain ⟨⟨h1, h2, h3, h4, h5, h6⟩, -⟩ := layout_ok_sr2 h
  simp only [decodeSr2, fieldValue_eq_extractLsb', h1, h2, h3, h4, h5, h6]

theorem decodeSr3_eq_extractLsb' {l : SrLayout} (h : l.ok = true) (b : Byte) :
    decodeSr3 l b = { rsvd3 := b.extractLsb' l.rsvd3.lo 1, lutF := b.extractLsb' l.lutF.lo 1,
                      ecc := b.extractLsb' l.ecc.lo 2, pFail := b.extractLsb' l.pFail.lo 1,
                      eFail := b.extractLsb' l.eFail.lo 1, wel := b.extractLsb' l.wel.lo 1,
                      busy := b.extractLsb' l.busy.lo 1 } := by
  obtain ⟨⟨h1, h2, h3, h4, h5, h6, h7⟩, -⟩ := layout_ok_sr3 h
  simp only [decodeSr3, fieldValue_eq_extractLsb', h1, h2, h3, h4, h5, h6, h7]

/-- Bit `i` of the block-protect field is a bit of the byte (R201). -/
theorem bpBit_decodeSr1 {l : SrLayout} (h : l.ok = true) (b : Byte) {i : Nat} (hi : i < 4) :
    bpBit (decodeSr1 l b) i = b.getLsbD (l.bp.lo + i) := by
  obtain ⟨⟨-, hbp, -⟩, -⟩ := layout_ok_sr1 h
  exact getLsbD_fieldValue hbp b hi

/-- Settles O14: the default layout is an admitted one, whose fields begin where the statement says. -/
theorem defaultLayoutFields : Obligations.DefaultLayoutFields := by
  unfold Obligations.DefaultLayoutFields
  exact fun b => ⟨decodeSr1_eq_extractLsb' layout_default_ok b, decodeSr2_eq_extractLsb' layout_default_ok b,
    decodeSr3_eq_extractLsb' layout_default_ok b, fun i hi => bpBit_decodeSr1 layout_default_ok b hi⟩

/-! ## Clearing the block-protect field (R203) -/

theorem clearBp_eq_and (l : SrLayout) (b : Byte) : clearBp l b = b &&& ~~~fieldMask l.bp := by
  rw [clearBp, fieldSet, BitVec.zero_shiftLeft, BitVec.zero_and, BitVec.or_zero]

/-- Setting the block-protect field of Status1 changes that field alone (R201). -/
theorem decodeSr1_set_bp {l : SrLayout} (h : l.ok = true) (b v : Byte) :
    decodeSr1 l (fieldSet b l.bp v) = { decodeSr1 l b with bp := v.setWidth 4 } := by
  obtain ⟨⟨h1, h2, h3, h4, h5⟩, hd⟩ := layout_ok_sr1 h
  have hapart := apart_both hd
  simp only [List.pairwise_cons, List.forall_mem_cons] at hapart
  obtain ⟨⟨⟨-, hsrp0⟩, -⟩, ⟨⟨htb, -⟩, ⟨hwpE, -⟩, ⟨hsrp1, -⟩, -⟩, -⟩ := hapart
  simp only [decodeSr1, fieldValue_fieldSet_same h2, fieldValue_fieldSet_other h2 h1 hsrp0,
    fieldValue_fieldSet_other h2 h3 htb, fieldValue_fieldSet_other h2 h4 hwpE,
    fieldValue_fieldSet_other h2 h5 hsrp1]

/-- Settles O15: clearing sets the field to 0, which masks its bits away; `0x87` is what the default layout keeps. -/
theorem clearBlockProtect : Obligations.ClearBlockProtect := by
  unfold Obligations.ClearBlockProtect
  refine ⟨fun _ _ => rfl, fun l b h => ⟨decodeSr1_set_bp h b 0#8, ?_⟩, fun b => ?_⟩
  · rw [clearBp_eq_and, clearBp_eq_and, BitVec.and_assoc, BitVec.and_self]
  · have hkept : ~~~fieldMask (SrLayout.bp {}) = 0x87#8 := by decide
    rw [clearBp_eq_and, hkept]

/-! ## The decoded identity (R208) -/

theorem lookupName_eq_unknown_iff (code : U16) (known : List (U16 × String)) :
    lookupName code known = .unknown ↔ code ∉ known.map Prod.fst := by
  induction known with
  | nil => simp [lookupName]
  | cons entry known ih =>
    rw [lookupName, List.map_cons, List.mem_cons, not_or, ← ih]
    split
    · next heq => simp [heq]
    · next hne => simp [Ne.symm hne]

theorem mem_of_lookupName_eq_known {code : U16} {known : List (U16 × String)} {name : String}
    (h : lookupName code known = .known name) : (code, name) ∈ known := by
  induction known with
  | nil => cases h
  | cons entry known ih =>
    rw [lookupName] at h
    split at h
    · next heq =>
      cases heq
      cases h
      exact List.mem_cons_self
    · exact List.mem_cons_of_mem _ (ih h)

/-- A listed code has a name. -/
theorem exists_lookupName_eq_known {code : U16} {known : List (U16 × String)} (h : code ∈ known.map Prod.fst) :
    ∃ name, lookupName code known = .known name := by
  cases hname : lookupName code known with
  | known name => exact ⟨name, rfl⟩
  | unknown => exact absurd h ((lookupName_eq_unknown_iff code known).mp hname)

/-- The bytes of a code, the high one first. -/
theorem toNat_bigEndian (b1 b2 : Byte) : (b1 ++ b2 : U16).toNat = 2 ^ 8 * b1.toNat + b2.toNat := by
  rw [BitVec.toNat_append, ← Nat.shiftLeft_add_eq_or_of_lt b2.isLt, Nat.shiftLeft_eq, Nat.mul_comm]

/-- R208's check of `KNOWN_DEVICES`. -/
theorem knownOk_iff (c : Config) :
    c.knownOk = true ↔
      0xAA22#16 ∈ c.knownDevices.map Prod.fst ∧ 0x0000#16 ∉ c.knownDevices.map Prod.fst := by
  simp only [Config.knownOk, Bool.and_eq_true, Bool.not_eq_true', List.contains_iff_mem, ← Bool.not_eq_true]

/-- Settles O16: the name is the lookup of the code, and an admitted configuration's list has the one code and not the
other. -/
theorem jedecDecode_spec : Obligations.JedecDecode := by
  unfold Obligations.JedecDecode
  refine ⟨fun known b0 b1 b2 => ⟨rfl, toNat_bigEndian b1 b2, lookupName_eq_unknown_iff _ _,
    fun _ h => mem_of_lookupName_eq_known h, fun _ => rfl⟩, fun c b0 hv => ?_⟩
  obtain ⟨-, -, -, -, hknown⟩ := valid_parts hv
  obtain ⟨hlisted, hunlisted⟩ := (knownOk_iff c).mp hknown
  exact ⟨exists_lookupName_eq_known hlisted, (lookupName_eq_unknown_iff _ _).mpr hunlisted⟩

end Sys2Proof.Machine
end

section
/-! PROOFS of 42_driver_primitives: a request run against the answers of a device, one rule for each verdict on an
answer; RESET, WRREG and PWRDN (O26), RDREG, JEDEC and RDATA (O27), PLOAD and PLOADR (O30), PREAD (O32). -/

namespace Sys2Proof.Machine

open Host

/-! ## A request's turn once a transaction is answered (R34, R36) -/

/-- The data operand that a request's turn reads again. -/
def requestData : Instr → List Byte
  | .pload _ data => data
  | .ploadr _ data => data
  | .swrite _ data => data
  | _ => []

/-- Every request, whichever it is, goes on in the same way once it has begun. -/
theorem exec_request_resume {i : Instr} (hreq : isRequest i = true) {s : State} {q : Seq} {r : TxnResult}
    (hseq : s.seq = some q) (hrx : s.rx = some r) : exec i s = s.resume (requestData i) q r := by
  cases i with
  | reset | jedec | wren | wrdi | rdreg | wrreg | berase | pload | ploadr | pexec | pread | rdata | unprot | pwrdn
  | sread | swrite | serase | bstat | scanst | scannx => exact runRequest_resume hseq hrx
  | scap => exact runRequest_resume (start := fun s => .next (s.finish (.ok (.number s.cfg.capacity)))) hseq hrx
  | _ => cases hreq

/-- The state with transactions added to its transcript (R15). -/
def State.recorded (s : State) (records : List TxnRecord) : State := { s with trace := s.trace ++ records }

@[simp] theorem State.recorded_cfg (s : State) (records : List TxnRecord) : (s.recorded records).cfg = s.cfg := rfl

@[simp] theorem State.recorded_nil (s : State) : s.recorded [] = s := by
  simp only [State.recorded, List.append_nil]

/-- A transcript grows at its end (R15). -/
@[simp] theorem State.recorded_recorded (s : State) (xs ys : List TxnRecord) :
    (s.recorded xs).recorded ys = s.recorded (xs ++ ys) := by
  simp only [State.recorded, List.append_assoc]

/-- The end of a request in the statements' terms (R32, R127). -/
theorem State.recorded_finish (s : State) (records : List TxnRecord) (res : Result) :
    (s.recorded records).finish res =
      s.endedWith (resultKind res) (resultInfo res) (resultData res) res (s.trace ++ records) := rfl

/-- The sequencer with the bytes that an answer gave it. -/
def Seq.gather (q : Seq) (bytes : List Byte) : Seq := { q with acc := q.acc ++ bytes }

@[simp] theorem Seq.gather_nil (q : Seq) : q.gather [] = q := by
  simp only [Seq.gather, List.append_nil]

/-- The transcript's record of an operation that returned `r`. -/
def opRecord (c : Config) (op : Op) (r : TxnResult) : TxnRecord := { sent := opStream c op, got := r }

/-- Whatever comes after the answer of the transaction in flight, the transcript has gained that transaction. -/
theorem State.issue_answered (t : State) (q q' : Seq) (op op' : Op) (rest rest' : List Op) (r : TxnResult) :
    ((t.issue q op rest).answeredBy r).issue q' op' rest' = (t.recorded [opRecord t.cfg op r]).issue q' op' rest' := rfl

theorem State.finish_answered (t : State) (q : Seq) (op : Op) (rest : List Op) (r : TxnResult) (res : Result) :
    ((t.issue q op rest).answeredBy r).finish res = (t.recorded [opRecord t.cfg op r]).finish res := rfl

@[simp] theorem State.answeredBy_cfg (s : State) (r : TxnResult) : (s.answeredBy r).cfg = s.cfg := rfl

/-- The sequencer of a request that is one list of transactions and a `return`, with nothing gathered. -/
def retSeq (ret : Ret) : Seq := { ops := [], tail := .ret ret, acc := [], tryItem := false }

section Runs

variable {i : Instr} {s : State} {tr : List TxnRecord} {q : Seq} {op : Op} {rest : List Op} {r : TxnResult}
  {rs : List TxnResult}

/-- The run goes on from wherever the sequencer's consumption of the answer leads. -/
theorem requestRun_of_resume {t : State} (hreq : isRequest i = true)
    (hturn : (((s.recorded tr).issue q op rest).answeredBy r).resume (requestData i) { q with ops := op :: rest } r =
      .next t) :
    requestRun i (r :: rs) ((s.recorded tr).issue q op rest) = requestRun i rs t := by
  have hexec : exec i (((s.recorded tr).issue q op rest).answeredBy r) = .next t :=
    (exec_request_resume hreq rfl rfl).trans hturn
  simp only [requestRun, hexec]

/-- A passed check leads to the next transaction of the iteration. -/
theorem requestRun_proceed {op' : Op} {g : List Byte} (hreq : isRequest i = true)
    (hj : judge s.cfg op r = .proceed g) :
    requestRun i (r :: rs) ((s.recorded tr).issue q op (op' :: rest)) =
      requestRun i rs ((s.recorded (tr ++ [opRecord s.cfg op r])).issue (q.gather g) op' rest) := by
  refine requestRun_of_resume hreq ?_
  simp only [State.resume, State.answeredBy_cfg, State.issue_cfg, State.recorded_cfg, hj, State.advance_cons]
  rw [State.issue_answered, State.recorded_recorded]
  rfl

/-- A passed check on the last transaction leads to the request's `return` (R127). -/
theorem requestRun_return {g : List Byte} {ret : Ret} {p : Payload} (hreq : isRequest i = true)
    (hj : judge s.cfg op r = .proceed g) (htail : q.tail = .ret ret)
    (hp : retPayload s.cfg (q.acc ++ g) ret = some p) :
    requestRun i (r :: rs) ((s.recorded tr).issue q op []) =
      requestRun i rs ((s.recorded (tr ++ [opRecord s.cfg op r])).finish (.ok p)) := by
  refine requestRun_of_resume hreq ?_
  simp only [State.resume, State.answeredBy_cfg, State.issue_cfg, State.recorded_cfg, hj, State.advance_nil,
    State.iterate, htail, State.deliver, hp]
  rw [State.finish_answered, State.recorded_recorded]
  rfl

/-- A check may put another transaction in the answered one's place. -/
theorem requestRun_replace {op' : Op} (hreq : isRequest i = true) (hj : judge s.cfg op r = .replace op') :
    requestRun i (r :: rs) ((s.recorded tr).issue q op rest) =
      requestRun i rs ((s.recorded (tr ++ [opRecord s.cfg op r])).issue q op' rest) := by
  refine requestRun_of_resume hreq ?_
  simp only [State.resume, State.answeredBy_cfg, State.issue_cfg, State.recorded_cfg, hj]
  rw [State.issue_answered, State.recorded_recorded]
  rfl

/-- A failed check ends the request (R310). -/
theorem requestRun_raise {e : Err} (hreq : isRequest i = true) (hj : judge s.cfg op r = .raise e) :
    requestRun i (r :: rs) ((s.recorded tr).issue q op rest) =
      requestRun i rs ((s.recorded (tr ++ [opRecord s.cfg op r])).raise q.tryItem e) := by
  refine requestRun_of_resume hreq ?_
  simp only [State.resume, State.answeredBy_cfg, State.issue_cfg, State.recorded_cfg, hj]
  simp only [State.raise, State.finish_answered, State.recorded_recorded]
  rfl

/-! ## The write-enable sequence (R214, R303) -/

/-- A frame that keeps nothing is sent, and nothing is checked (R11). -/
theorem requestRun_send {cmd : Instr} {op' : Op} (hreq : isRequest i = true) :
    requestRun i (.ok [] :: rs) ((s.recorded tr).issue q (.send cmd) (op' :: rest)) =
      requestRun i rs ((s.recorded (tr ++ [sentRecord (opStream s.cfg (.send cmd))])).issue q op' rest) := by
  rw [requestRun_proceed hreq (g := []) rfl, Seq.gather_nil]
  rfl

theorem judge_checkWel_of_set {c : Config} {x : RegRead} (h : (decodeSr3 c.layout x.value).wel = 1#1) :
    judge c .checkWel x.draw = .proceed [] := by
  simp [judge, RegRead.draw, judgeOk, onRegister, h]

theorem judge_checkWel_of_clear {c : Config} {x : RegRead} (h : (decodeSr3 c.layout x.value).wel = 0#1) :
    judge c .checkWel x.draw = .raise (.writeEnable x.value) := by
  simp [judge, RegRead.draw, judgeOk, onRegister, h]

/-- The two transactions of the sequence, in the transcript's terms. -/
theorem weRecords_eq (c : Config) (x : RegRead) :
    weRecords c x = [sentRecord (opStream c (.send .writeEnableWire)), opRecord c .checkWel x.draw] := rfl

/-- With `wel` seen set the body goes on. -/
theorem requestRun_weSeq_of_set {x : RegRead} {op' : Op} (hreq : isRequest i = true)
    (hwel : (decodeSr3 s.cfg.layout x.value).wel = 1#1) :
    requestRun i (.ok [] :: x.draw :: rs)
        ((s.recorded tr).issue q (.send .writeEnableWire) (.checkWel :: op' :: rest)) =
      requestRun i rs ((s.recorded (tr ++ weRecords s.cfg x)).issue q op' rest) := by
  rw [requestRun_send hreq, requestRun_proceed hreq (judge_checkWel_of_set hwel), Seq.gather_nil,
    List.append_assoc, weRecords_eq]
  rfl

/-- With `wel` seen clear the request ends, and what would follow is not sent. -/
theorem requestRun_weSeq_of_clear {x : RegRead} (hreq : isRequest i = true)
    (hwel : (decodeSr3 s.cfg.layout x.value).wel = 0#1) :
    requestRun i (.ok [] :: x.draw :: rs)
        ((s.recorded tr).issue q (.send .writeEnableWire) (.checkWel :: rest)) =
      requestRun i rs ((s.recorded (tr ++ weRecords s.cfg x)).raise q.tryItem (.writeEnable x.value)) := by
  rw [requestRun_send hreq, requestRun_raise hreq (judge_checkWel_of_clear hwel), List.append_assoc, weRecords_eq]
  rfl

/-! ## The poll (R212, R314) -/

/-- A read that saw busy, with more reads to make, is followed by another. -/
theorem judge_poll_of_busy {c : Config} {x : RegRead} {reads : Nat} {check : PollCheck} (hbusy : busySet c x.value)
    (hlimit : c.pollLimit ≠ .limit (reads + 1)) :
    judge c (.poll reads check) x.draw = .replace (.poll (reads + 1) check) := by
  unfold busySet at hbusy
  simp [judge, RegRead.draw, judgeOk, onRegister, pollStep, hbusy, hlimit]

/-- The last read of a poll that ends did not see busy, and is the caller's to check. -/
theorem judge_poll_of_pollEnds {c : Config} {busy : List RegRead} {last : RegRead} {reads : Nat} {check : PollCheck}
    (hpoll : pollEnds c busy last) :
    judge c (.poll reads check) last.draw = checkPoll c last.value check := by
  obtain ⟨-, hready, -⟩ := hpoll
  have hclear : (decodeSr3 c.layout last.value).busy = 0#1 := (BitVec.eq_zero_or_eq_one _).resolve_right hready
  simp [judge, RegRead.draw, judgeOk, onRegister, pollStep, hclear]

theorem opRecord_poll (c : Config) (reads : Nat) (check : PollCheck) (x : RegRead) :
    opRecord c (.poll reads check) x.draw = regRecord c 0xC0#8 x := rfl

/-- The busy reads of a poll only lengthen the transcript, by induction on them. -/
theorem requestRun_poll_busy {busy : List RegRead} {reads : Nat} {check : PollCheck} (hreq : isRequest i = true)
    (hbusy : ∀ x ∈ busy, busySet s.cfg x.value)
    (hlimit : ∀ n, s.cfg.pollLimit = .limit n → reads + busy.length < n) :
    requestRun i (busy.map RegRead.draw ++ rs) ((s.recorded tr).issue q (.poll reads check) rest) =
      requestRun i rs ((s.recorded (tr ++ busy.map (regRecord s.cfg 0xC0#8))).issue q
        (.poll (reads + busy.length) check) rest) := by
  induction busy generalizing tr reads with
  | nil => simp
  | cons x busy ih =>
    rw [List.length_cons] at hlimit
    have hmore : s.cfg.pollLimit ≠ .limit (reads + 1) := fun h => by
      have := hlimit _ h
      omega
    have hlimit' : ∀ n, s.cfg.pollLimit = .limit n → reads + 1 + busy.length < n := fun n h => by
      have := hlimit n h
      omega
    rw [List.map_cons, List.cons_append,
      requestRun_replace hreq (judge_poll_of_busy (hbusy x List.mem_cons_self) hmore), opRecord_poll,
      ih (fun y hy => hbusy y (List.mem_cons_of_mem x hy)) hlimit']
    simp [Nat.add_assoc, Nat.add_comm 1]

/-- A poll that ends comes to its last read, the earlier ones in the transcript. -/
theorem requestRun_pollDraws {busy : List RegRead} {last : RegRead} {check : PollCheck} (hreq : isRequest i = true)
    (hpoll : pollEnds s.cfg busy last) :
    requestRun i (pollDraws busy last ++ rs) ((s.recorded tr).issue q (.poll 0 check) rest) =
      requestRun i (last.draw :: rs) ((s.recorded (tr ++ busy.map (regRecord s.cfg 0xC0#8))).issue q
        (.poll busy.length check) rest) := by
  obtain ⟨hbusy, -, hlimit⟩ := hpoll
  rw [pollDraws, List.append_assoc, requestRun_poll_busy hreq hbusy (by simpa using hlimit), Nat.zero_add]
  rfl

end Runs

/-! ## RESET, WRREG, PWRDN and RDREG, JEDEC, RDATA: one transaction -/

/-- A request's start drives its first transaction, nothing being in the transcript yet. -/
theorem startOps_cons (s : State) (op : Op) (rest : List Op) (ret : Ret) :
    startOps (op :: rest) ret s = .next ((s.recorded []).issue (retSeq ret) op rest) := by
  rw [State.recorded_nil]
  rfl

/-- A request of one transaction whose answer passes its check returns at once. -/
theorem run_oneTransaction {i : Instr} {s : State} {ret : Ret} {r : TxnResult} {g : List Byte} (op : Op)
    (p : Payload) (hreq : isRequest i = true) (hstart : exec i s = startOps [op] ret s)
    (hj : judge s.cfg op r = .proceed g) (hp : retPayload s.cfg g ret = some p) :
    ∃ u, exec i s = .next u ∧ requestRun i [r] u =
      .next (s.endedWith (resultKind (.ok p)) (resultInfo (.ok p)) (resultData (.ok p)) (.ok p)
        (s.trace ++ [opRecord s.cfg op r])) := by
  refine ⟨_, hstart.trans (startOps_cons s op [] ret), ?_⟩
  rw [requestRun_return (q := retSeq ret) hreq hj rfl hp, State.recorded_finish]
  rfl

/-- Settles O26: each is one transaction whose answer is not checked, and returns nothing. -/
theorem plainRequests : Obligations.PlainRequests := by
  unfold Obligations.PlainRequests
  intro s hseq
  refine ⟨?_, fun sel val => ?_, ?_⟩
  · exact run_oneTransaction (i := .reset) (.send .resetWire) .unit rfl (runRequest_start hseq) rfl rfl
  · exact run_oneTransaction (i := .wrreg sel val) (.send (.writeRegWire sel val)) .unit rfl
      (runRequest_start hseq) rfl rfl
  · exact run_oneTransaction (i := .pwrdn) (.send .powerDownWire) .unit rfl (runRequest_start hseq) rfl rfl

/-- The `INFO` word of a decoded identity: whether its code is listed, the manufacturer, the code (R127, R208). -/
theorem identityInfo_jedecDecode (known : List (U16 × String)) (b0 b1 b2 : Byte) :
    identityInfo (jedecDecode known b0 b1 b2) =
      (if (b1 ++ b2 : U16) ∈ known.map Prod.fst then 0x01#8 else 0x00#8) ++ b0 ++ (b1 ++ b2 : U16) := by
  by_cases hlisted : (b1 ++ b2 : U16) ∈ known.map Prod.fst
  · obtain ⟨name, hname⟩ := exists_lookupName_eq_known hlisted
    simp only [identityInfo, jedecDecode, hname, if_pos hlisted]
  · have hname := (lookupName_eq_unknown_iff _ _).mpr hlisted
    simp only [identityInfo, jedecDecode, hname, if_neg hlisted]

/-- A buffer read in the transcript: as many fill bytes as the device sent back (R152). -/
theorem opRecord_readData (c : Config) (col len : U32) {bytes : List Byte} (h : bytes.length = len.toNat) :
    opRecord c (.readData col len) (.ok bytes) = readRecord c col bytes := by
  rw [readRecord, h]
  exact congrArg (TxnRecord.mk · _) (streamOf_write_read _ _ _)

/-- Settles O27: each is one transaction that gathers what it keeps; the fill bytes and `INFO` are as many as the bytes
asked for. -/
theorem readingRequests : Obligations.ReadingRequests := by
  unfold Obligations.ReadingRequests
  intro s hseq
  refine ⟨fun sel x => ?_, fun b0 b1 b2 => ?_, fun col len bytes hlen => ?_⟩
  · exact run_oneTransaction (i := .rdreg sel) (.readReg sel) (.register x.value) rfl
      (runRequest_start hseq) rfl rfl
  · rw [← identityInfo_jedecDecode]
    exact run_oneTransaction (i := .jedec) .readJedec
      (.identity (jedecDecode s.cfg.knownDevices b0 b1 b2)) rfl (runRequest_start hseq) rfl rfl
  · have hj : judge s.cfg (.readData col len) (.ok bytes) = .proceed bytes := if_pos hlen
    have hinfo : resultInfo (.ok (.bytes bytes)) = len := BitVec.eq_of_toNat_eq (by simp [resultInfo, hlen])
    have hrun := run_oneTransaction (i := .rdata col len) (ret := .bytes) (.readData col len) (.bytes bytes) rfl
      (runRequest_start hseq) hj rfl
    rwa [opRecord_readData s.cfg col len hlen, hinfo] at hrun

/-! ## PLOAD and PLOADR: a write-enable and one load -/

/-- A request that is the write-enable sequence and one frame: `wel` decides whether the frame is sent, and its answer
is not checked. -/
theorem run_weSeq_send {i cmd : Instr} {s : State} (hreq : isRequest i = true)
    (hstart : exec i s = startOps (weSeq ++ [.send cmd]) .unit s) (x : RegRead) :
    ∃ u, exec i s = .next u ∧
      ((decodeSr3 s.cfg.layout x.value).wel = 1#1 → requestRun i [.ok [], x.draw, .ok []] u =
        .next (s.endedWith 0x00#8 0#32 [] (.ok .unit)
          (s.trace ++ (weRecords s.cfg x ++ [sentRecord (opStream s.cfg (.send cmd))])))) ∧
      ((decodeSr3 s.cfg.layout x.value).wel = 0#1 → requestRun i [.ok [], x.draw] u =
        .next (s.endedWith 0x02#8 (x.value.setWidth 32) [] (.err (.writeEnable x.value))
          (s.trace ++ weRecords s.cfg x))) := by
  refine ⟨_, hstart.trans (startOps_cons s (.send .writeEnableWire) [.checkWel, .send cmd] .unit),
    fun hwel => ?_, fun hwel => ?_⟩
  · rw [requestRun_weSeq_of_set hreq hwel, requestRun_return hreq (g := []) (p := .unit) rfl rfl rfl,
      State.recorded_finish]
    rfl
  · exact requestRun_weSeq_of_clear hreq hwel

theorem opStream_load (c : Config) (col : U32) (data : List Byte) :
    opStream c (.send (.loadProgramDataWire (wireCol c col) data)) =
      c.opc.loadProgramData :: (serCol c col ++ data) := List.append_nil _

theorem opStream_randomLoad (c : Config) (col : U32) (data : List Byte) :
    opStream c (.send (.randomLoadProgramDataWire (wireCol c col) data)) =
      c.opc.randomLoadProgramData :: (serCol c col ++ data) := List.append_nil _

/-- Settles O30: both are the write-enable sequence and one load. -/
theorem loads : Obligations.Loads := by
  unfold Obligations.Loads
  intro s col data x hseq
  rw [← opStream_load, ← opStream_randomLoad]
  exact ⟨run_weSeq_send (i := .pload col data) rfl (runRequest_start hseq) x,
    run_weSeq_send (i := .ploadr col data) rfl (runRequest_start hseq) x⟩

/-! ## PREAD: one frame and a poll -/

/-- Settles O32: the page read is sent, the poll ends, and its last snapshot is not checked. -/
theorem pageDataRead : Obligations.PageDataRead := by
  unfold Obligations.PageDataRead
  intro s page busy last hseq hpoll
  have hstart : exec (.pread page) s = startOps (pageReadBody page) .unit s := runRequest_start hseq
  have hlast : judge s.cfg (.poll busy.length .nothing) last.draw = .proceed [] := judge_poll_of_pollEnds hpoll
  refine ⟨_, hstart.trans (startOps_cons _ _ _ _), ?_⟩
  rw [requestRun_send rfl, ← List.append_nil (pollDraws busy last), requestRun_pollDraws rfl hpoll,
    requestRun_return rfl hlast (p := .unit) rfl rfl, opRecord_poll, List.append_assoc, State.recorded_finish]
  rfl

end Sys2Proof.Machine
end

section
/-! PROOFS of 43_storage_ops: the requests that send nothing (O34), BSTAT (O35), the loops of SREAD, SWRITE and SERASE
carried through their chunks (O36, O37, O38) and stopped by the chunk that fails (O39), and the storage error view
(O46). -/

namespace Sys2Proof.Machine

open Host

/-! ## The storage error view (R267) -/

theorem storageKind_of_ne {e : Err} (halign : ∀ off, e ≠ .notAligned off)
    (hbounds : ∀ off, e ≠ .outOfBounds off) : storageKind e = .other := by
  cases e with
  | notAligned off => exact absurd rfl (halign off)
  | outOfBounds off => exact absurd rfl (hbounds off)
  | _ => rfl

/-- Settles O46: the view names two errors and calls every other one `Other`. -/
theorem storageView : Obligations.StorageView := by
  unfold Obligations.StorageView
  exact ⟨fun _ => ⟨rfl, rfl⟩, fun _ => storageKind_of_ne⟩

/-! ## SCAP, SCANST and an ended SCANNX (R262, R290, R291) -/

theorem startScanNext_of_ended {s : State} (h : s.scanActive = false ∨ s.scanEnd.toNat < s.scanNextPage.toNat) :
    startScanNext s = .next ({ s with scanActive := false }.finish (.ok (.item .finished))) := if_pos h

/-- Settles O34: each is answered in its first turn, before any transaction. -/
theorem quietRequests : Obligations.QuietRequests := by
  unfold Obligations.QuietRequests
  intro s hseq
  refine ⟨?_, ?_, fun hended => ?_⟩
  · exact runRequest_start (start := fun s => .next (s.finish (.ok (.number s.cfg.capacity)))) hseq
  · exact runRequest_start (start := startScan) hseq
  · exact (runRequest_start (start := startScanNext) hseq).trans (startScanNext_of_ended hended)

/-! ## BSTAT (R266) -/

theorem resultInfo_blockStatus (m : Byte) :
    resultInfo (.ok (.blockStatus (if m = 0xFF#8 then .good else .failed))) = if m = 0xFF#8 then 1#32 else 0#32 := by
  split <;> rfl

/-- Settles O35: a page read whose last snapshot is not checked, then the marker byte, whose value is the answer. -/
theorem blockStatusRequest : Obligations.BlockStatusRequest := by
  unfold Obligations.BlockStatusRequest
  intro s off busy last m hseq hpoll
  have hstart : exec (.bstat off) s =
      startOps [.send (.pageDataReadWire (wirePage (fromByteAddress off))), .poll 0 .nothing,
        .readData markerCol 1#32] .marker s := runRequest_start hseq
  have hlast : judge s.cfg (.poll busy.length .nothing) last.draw = .proceed [] := judge_poll_of_pollEnds hpoll
  have hmarker : judge s.cfg (.readData markerCol 1#32) (.ok [m]) = .proceed [m] := rfl
  refine ⟨_, hstart.trans (startOps_cons _ _ _ _), ?_⟩
  rw [requestRun_send rfl, requestRun_pollDraws rfl hpoll, requestRun_proceed rfl hlast, Seq.gather_nil,
    requestRun_return rfl hmarker rfl rfl, opRecord_poll, opRecord_readData s.cfg markerCol 1#32 rfl,
    State.recorded_finish, resultInfo_blockStatus]
  simp only [pollRecords, List.append_assoc]
  rfl

/-! ## Transactions that pass, and the transaction that decides (R302, R314)

A chunk of a storage request is a list of transactions, any of which may be the one that fails (R268). `Passes` follows
those that pass their checks, and `EndsIn` those up to one whose verdict matters; what the device returned is read from
the transcript. Both speak of the checks alone: `requestRun_passes` and `requestRun_raises` tie them to a run. -/

/-- A transport error at this transaction ends the request (R302). -/
def RaisesTransport (c : Config) (op : Op) : Prop := ∀ t, judge c op (.err t) = .raise (.transport t)

/-- The transactions of `ops` are answered as the records say and pass their checks, `gathered` being the bytes they
give, until `left` remains. -/
inductive Passes (c : Config) : List Op → List TxnRecord → List Byte → List Op → Prop
  | none (ops : List Op) : Passes c ops [] [] ops
  | proceed {op : Op} {ops left : List Op} {r : TxnResult} {records : List TxnRecord} {g gathered : List Byte}
      (raises : RaisesTransport c op) (verdict : judge c op r = .proceed g)
      (more : Passes c ops records gathered left) :
      Passes c (op :: ops) (opRecord c op r :: records) (g ++ gathered) left
  | replace {op op' : Op} {ops left : List Op} {r : TxnResult} {records : List TxnRecord} {gathered : List Byte}
      (raises : RaisesTransport c op) (verdict : judge c op r = .replace op')
      (more : Passes c (op' :: ops) records gathered left) :
      Passes c (op :: ops) (opRecord c op r :: records) gathered left

/-- The transactions of `ops` pass up to the last one of the records, whose check has this verdict. -/
inductive EndsIn (c : Config) : List Op → List TxnRecord → Verdict → Prop
  | last {op : Op} {ops left : List Op} {r : TxnResult} {records : List TxnRecord} {gathered : List Byte}
      (passed : Passes c ops records gathered (op :: left)) (raises : RaisesTransport c op) :
      EndsIn c ops (records ++ [opRecord c op r]) (judge c op r)

section Transactions

variable {c : Config} {ops ops' left : List Op} {op : Op} {records records' : List TxnRecord}
  {gathered gathered' : List Byte} {v : Verdict}

theorem Passes.trans (h : Passes c ops records gathered ops') (h' : Passes c ops' records' gathered' left) :
    Passes c ops (records ++ records') (gathered ++ gathered') left := by
  induction h with
  | none => exact h'
  | proceed raises verdict _ ih => rw [List.append_assoc]; exact .proceed raises verdict (ih h')
  | replace raises verdict _ ih => exact .replace raises verdict (ih h')

theorem EndsIn.after (h : Passes c ops records gathered ops') (h' : EndsIn c ops' records' v) :
    EndsIn c ops (records ++ records') v := by
  cases h' with
  | last passed raises => rw [← List.append_assoc]; exact .last (h.trans passed) raises

/-- One transaction decides at once. -/
theorem EndsIn.head {r : TxnResult} (raises : RaisesTransport c op) (verdict : judge c op r = v) :
    EndsIn c (op :: ops) [opRecord c op r] v :=
  verdict ▸ EndsIn.last (records := []) (.none _) raises

/-- The transport may fail any transaction that was to pass: by induction on those before it. -/
theorem Passes.struck (h : Passes c ops records gathered left) {j : Nat} {r : TxnRecord} (hr : records[j]? = some r)
    (t : TErr) : EndsIn c ops (records.take j ++ [r.failedBy t]) (.raise (.transport t)) := by
  induction h generalizing j with
  | none => cases hr
  | proceed raises verdict _ ih =>
    cases j with
    | zero => cases hr; exact .head raises (raises t)
    | succ j => exact EndsIn.after (records := [_]) (.proceed raises verdict (.none _)) (ih hr)
  | replace raises verdict _ ih =>
    cases j with
    | zero => cases hr; exact .head raises (raises t)
    | succ j => exact EndsIn.after (records := [_]) (.replace raises verdict (.none _)) (ih hr)

/-- The same with the last transaction among them, whatever its verdict was to be. -/
theorem EndsIn.struck (h : EndsIn c ops records v) {j : Nat} {r : TxnRecord} (hr : records[j]? = some r) (t : TErr) :
    EndsIn c ops (records.take j ++ [r.failedBy t]) (.raise (.transport t)) := by
  cases h with
  | @last op _ _ _ before _ passed raises =>
    rcases Nat.lt_or_ge j before.length with hlt | hge
    · rw [List.getElem?_append_left hlt] at hr
      rw [List.take_append_of_le_length hlt.le]
      exact passed.struck hr t
    · rw [List.getElem?_append_right hge, List.getElem?_singleton] at hr
      split at hr
      · next hlast =>
        cases hr
        rw [show j = before.length by omega, List.take_left]
        exact .after passed (.head raises (raises t))
      · cases hr

/-! ### The transactions that chunks and blocks are made of -/

theorem passes_send (cmd : Instr) (left : List Op) :
    Passes c (.send cmd :: left) [sentRecord (opStream c (.send cmd))] [] left :=
  .proceed (r := .ok []) (g := []) (fun _ => rfl) rfl (.none left)

theorem passes_sends (cmds : List Instr) (left : List Op) :
    Passes c (cmds.map .send ++ left) (cmds.map fun cmd => sentRecord (opStream c (.send cmd))) [] left := by
  induction cmds with
  | nil => exact .none left
  | cons cmd cmds ih => exact (passes_send cmd _).trans ih

theorem passes_weSeq {we : RegRead} (hset : (decodeSr3 c.layout we.value).wel = 1#1) (left : List Op) :
    Passes c (weSeq ++ left) (weRecords c we) [] left :=
  (passes_send .writeEnableWire _).trans (.proceed (fun _ => rfl) (judge_checkWel_of_set hset) (.none left))

theorem endsIn_weSeq_of_clear {we : RegRead} (hclear : (decodeSr3 c.layout we.value).wel = 0#1) (left : List Op) :
    EndsIn c (weSeq ++ left) (weRecords c we) (.raise (.writeEnable we.value)) :=
  .after (passes_send .writeEnableWire _) (.head (fun _ => rfl) (judge_checkWel_of_clear hclear))

/-- Reads that see busy, fewer than a bound allows, each put the next read in their place. -/
theorem passes_poll_busy {busy : List RegRead} {reads : Nat} {check : PollCheck}
    (hbusy : ∀ x ∈ busy, busySet c x.value) (hlimit : ∀ n, c.pollLimit = .limit n → reads + busy.length < n)
    (left : List Op) :
    Passes c (.poll reads check :: left) (busy.map (regRecord c 0xC0#8)) []
      (.poll (reads + busy.length) check :: left) := by
  induction busy generalizing reads with
  | nil => exact .none _
  | cons x busy ih =>
    rw [List.forall_mem_cons] at hbusy
    rw [List.length_cons, ← Nat.add_assoc, Nat.add_right_comm] at hlimit ⊢
    have hmore : c.pollLimit ≠ .limit (reads + 1) := fun h => by
      have := hlimit _ h
      omega
    exact .replace (fun _ => rfl) (judge_poll_of_busy hbusy.1 hmore) (ih hbusy.2 hlimit)

/-- A poll that ends comes to its last read (R212). -/
theorem passes_poll_reads {busy : List RegRead} {last : RegRead} (hpoll : pollEnds c busy last) (check : PollCheck)
    (left : List Op) :
    Passes c (.poll 0 check :: left) (busy.map (regRecord c 0xC0#8)) [] (.poll busy.length check :: left) := by
  obtain ⟨hbusy, -, hlimit⟩ := hpoll
  have hreads := passes_poll_busy (reads := 0) (check := check) hbusy (by simpa using hlimit) left
  rwa [Nat.zero_add] at hreads

/-- The last snapshot is the caller's to check (R314). -/
theorem endsIn_poll {busy : List RegRead} {last : RegRead} (hpoll : pollEnds c busy last) (check : PollCheck)
    (left : List Op) :
    EndsIn c (.poll 0 check :: left) (pollRecords c busy last) (checkPoll c last.value check) :=
  .after (passes_poll_reads hpoll check left) (.head (fun _ => rfl) (judge_poll_of_pollEnds hpoll))

theorem passes_poll {busy : List RegRead} {last : RegRead} {check : PollCheck} (hpoll : pollEnds c busy last)
    (hcheck : checkPoll c last.value check = .proceed []) (left : List Op) :
    Passes c (.poll 0 check :: left) (pollRecords c busy last) [] left :=
  (passes_poll_reads hpoll check left).trans
    (.proceed (fun _ => rfl) ((judge_poll_of_pollEnds hpoll).trans hcheck) (.none left))

/-- The last read that a bound allows, seeing busy, is a timeout (R313). -/
theorem judge_poll_of_spent {x : RegRead} {reads : Nat} {check : PollCheck} (hbusy : busySet c x.value)
    (hlimit : c.pollLimit = .limit (reads + 1)) :
    judge c (.poll reads check) x.draw = .raise (.pollTimeout (reads + 1)) := by
  unfold busySet at hbusy
  simp [judge, RegRead.draw, judgeOk, onRegister, pollStep, hbusy, hlimit]

theorem endsIn_poll_of_spent {busy : List RegRead} (hspent : pollSpent c busy) (check : PollCheck) (left : List Op) :
    EndsIn c (.poll 0 check :: left) (busy.map (regRecord c 0xC0#8)) (.raise (.pollTimeout busy.length)) := by
  obtain ⟨hne, hlimit, hbusy⟩ := hspent
  obtain ⟨init, x, rfl⟩ := List.eq_nil_or_concat busy |>.resolve_left hne
  rw [List.concat_eq_append, List.length_append, List.length_singleton] at *
  rw [List.forall_mem_append] at hbusy
  obtain ⟨hinit, hx⟩ := hbusy
  have hreads := passes_poll_busy (reads := 0) (check := check) hinit
    (fun n hn => by cases hn.symm.trans hlimit; omega) left
  rw [Nat.zero_add] at hreads
  rw [List.map_append]
  exact .after hreads (.head (fun _ => rfl) (judge_poll_of_spent (hx x List.mem_cons_self) hlimit))

theorem passes_readData {col len : U32} {bytes : List Byte} (hlen : bytes.length = len.toNat) (left : List Op) :
    Passes c (.readData col len :: left) [readRecord c col bytes] bytes left := by
  have hpass := Passes.proceed (c := c) (op := .readData col len) (r := .ok bytes) (fun _ => rfl) (if_pos hlen)
    (.none left)
  rwa [opRecord_readData c col len hlen, List.append_nil] at hpass

end Transactions

/-! ## A request run through its transactions -/

/-- What an iteration's end leads to does not depend on the transaction just answered, but for the transcript. -/
theorem State.iterate_answered (s : State) (q q' : Seq) (op : Op) (rest ops : List Op) (r : TxnResult)
    (data : List Byte) :
    ((s.issue q op rest).answeredBy r).iterate data { q' with ops := ops } =
      (s.recorded [opRecord s.cfg op r]).iterate data q' := by
  obtain ⟨_, tail, acc, tryItem⟩ := q'
  cases tail with
  | ret ret =>
    simp only [State.iterate, State.deliver, State.answeredBy_cfg, State.issue_cfg, State.recorded_cfg]
    split <;> rfl
  | readLoop n => exact ite_congr rfl (fun _ => rfl) fun _ => rfl
  | writeLoop n => exact ite_congr rfl (fun _ => rfl) fun _ => rfl
  | eraseBlocks g => simp only [State.iterate, State.eraseHead]; split <;> rfl
  | eraseUpTo p tp => exact ite_congr rfl (fun _ => rfl) fun _ => rfl

section Runs

variable {i : Instr} {s : State} {tr : List TxnRecord} {q : Seq} {op : Op} {rest left : List Op}
  {rs : List TxnResult} {records : List TxnRecord} {gathered : List Byte}

/-- A passed check on the last transaction of an iteration leads to the head of its loop, or to the `return`. -/
theorem requestRun_iterate {r : TxnResult} {g : List Byte} {t : State} (hreq : isRequest i = true)
    (hj : judge s.cfg op r = .proceed g)
    (hnext : (s.recorded (tr ++ [opRecord s.cfg op r])).iterate (requestData i) (q.gather g) = .next t) :
    requestRun i (r :: rs) ((s.recorded tr).issue q op []) = requestRun i rs t := by
  refine requestRun_of_resume hreq ?_
  simp only [State.resume, State.answeredBy_cfg, State.issue_cfg, State.recorded_cfg, hj, State.advance_nil]
  rw [← hnext, ← State.recorded_recorded]
  exact State.iterate_answered (s.recorded tr) q (q.gather g) op [] [op] r (requestData i)

/-- Transactions that pass lengthen the transcript and the bytes gathered, by induction on them. -/
theorem requestRun_passes {t : State} (hreq : isRequest i = true)
    (hpass : Passes s.cfg (op :: rest) records gathered left)
    (hnext : (s.recorded (tr ++ records)).advance (requestData i) (q.gather gathered) left = .next t) :
    requestRun i (records.map TxnRecord.got ++ rs) ((s.recorded tr).issue q op rest) = requestRun i rs t := by
  generalize hops : op :: rest = ops at hpass
  induction hpass generalizing op rest tr q with
  | none =>
    cases hops
    rw [List.append_nil, Seq.gather_nil, State.advance_cons] at hnext
    cases hnext
    rfl
  | @proceed op ops left r records g gathered _ verdict more ih =>
    cases hops
    cases ops with
    | nil =>
      cases more
      rw [List.append_nil, State.advance_nil] at hnext
      exact requestRun_iterate hreq verdict hnext
    | cons op' ops =>
      rw [List.map_cons, List.cons_append]
      refine (requestRun_proceed hreq verdict).trans (ih ?_ rfl)
      rw [← hnext, List.append_assoc, List.singleton_append]
      simp only [Seq.gather, List.append_assoc]
  | @replace op op' ops left r records gathered _ verdict more ih =>
    cases hops
    rw [List.map_cons, List.cons_append]
    refine (requestRun_replace hreq verdict).trans (ih ?_ rfl)
    rw [← hnext, List.append_assoc, List.singleton_append]

/-- A transaction that raises ends the request (R310). -/
theorem requestRun_raises {e : Err} (hreq : isRequest i = true)
    (hends : EndsIn s.cfg (op :: rest) records (.raise e)) :
    requestRun i (records.map TxnRecord.got) ((s.recorded tr).issue q op rest) =
      .next ((s.recorded (tr ++ records)).raise q.tryItem e) := by
  generalize hv : Verdict.raise e = v at hends
  cases hends with
  | last passed _ =>
    rw [List.map_append, requestRun_passes hreq passed (State.advance_cons ..), ← List.append_assoc]
    exact requestRun_raise hreq hv.symm

end Runs

/-! ## The loops of SREAD, SWRITE and SERASE (R263, R264, R265) -/

/-- The state with the loop registers `CUR` and `K` (R35). -/
def State.counting (s : State) (cur k : U32) : State := { s with cur := cur, k := k }

@[simp] theorem State.counting_cfg (s : State) (cur k : U32) : (s.counting cur k).cfg = s.cfg := rfl

/-- A loop over pages: how many chunks, where they lie, and the sequencer's transactions for chunk `j`. -/
structure ChunkLoop where
  count : Nat
  page : U32
  stride : Nat
  tail : Nat → Tail
  first : Nat → Op
  rest : Nat → List Op
  payload : List Byte → Payload

/-- The page of chunk `j`. -/
def ChunkLoop.pageOf (L : ChunkLoop) (j : Nat) : U32 := pageAt L.page L.stride j

/-- The sequencer at chunk `j`, with the bytes of the chunks before it. -/
def ChunkLoop.seq (L : ChunkLoop) (j : Nat) (acc : List Byte) : Seq :=
  { ops := [], tail := L.tail j, acc := acc, tryItem := false }

/-- Where the head of the loop leads with `j` chunks done: to the first transaction of chunk `j`, the cursor moved on,
or to the request's end. -/
def ChunkLoop.head (L : ChunkLoop) (s : State) (tr : List TxnRecord) (j : Nat) (acc : List Byte) : State :=
  if j < L.count then
    ((s.counting (L.pageOf (j + 1)) (BitVec.ofNat 32 j)).recorded tr).issue (L.seq j acc) (L.first j) (L.rest j)
  else ((s.counting (L.pageOf j) (BitVec.ofNat 32 j)).recorded tr).finish (.ok (L.payload acc))

theorem ChunkLoop.head_of_lt {L : ChunkLoop} {j : Nat} (h : j < L.count) (s : State) (tr : List TxnRecord)
    (acc : List Byte) :
    L.head s tr j acc =
      ((s.counting (L.pageOf (j + 1)) (BitVec.ofNat 32 j)).recorded tr).issue (L.seq j acc) (L.first j) (L.rest j) :=
  if_pos h

theorem ChunkLoop.head_count (L : ChunkLoop) (s : State) (tr : List TxnRecord) (acc : List Byte) :
    L.head s tr L.count acc =
      ((s.counting (L.pageOf L.count) (BitVec.ofNat 32 L.count)).recorded tr).finish (.ok (L.payload acc)) :=
  if_neg (Nat.lt_irrefl _)

/-- A request carries out a loop: its start leads to the head of chunk 0, and the end of chunk `j` to that of the
next. -/
structure ChunkLoop.Drives (L : ChunkLoop) (i : Instr) (s : State) : Prop where
  request : isRequest i = true
  start : exec i s = .next (L.head s [] 0 [])
  next : ∀ j < L.count, ∀ tr acc,
    ((s.counting (L.pageOf (j + 1)) (BitVec.ofNat 32 j)).recorded tr).iterate (requestData i) (L.seq j acc) =
      .next (L.head s tr (j + 1) acc)

section Chunks

variable {α : Type} {L : ChunkLoop} {i : Instr} {s : State} {xs : List α} {recordsOf : Nat → α → List TxnRecord}
  {drawsOf : α → List TxnResult} {bytesOf : α → List Byte}

/-- Chunks that pass lead from the head of the first of them to the head that follows the last, by induction on
them. -/
theorem ChunkLoop.Drives.run_chunks (h : L.Drives i s) (hdraws : ∀ j x, drawsOf x = (recordsOf j x).map TxnRecord.got)
    (hpass : ∀ x ∈ xs, ∀ j, Passes s.cfg (L.first j :: L.rest j) (recordsOf j x) (bytesOf x) [])
    {j : Nat} (hcount : j + xs.length ≤ L.count) (tr : List TxnRecord) (acc : List Byte) (rs : List TxnResult) :
    requestRun i (xs.flatMap drawsOf ++ rs) (L.head s tr j acc) =
      requestRun i rs (L.head s (tr ++ recordsFrom recordsOf j xs) (j + xs.length) (acc ++ xs.flatMap bytesOf)) := by
  induction xs generalizing j tr acc with
  | nil => simp [recordsFrom]
  | cons x xs ih =>
    rw [List.forall_mem_cons] at hpass
    rw [List.length_cons] at hcount ⊢
    obtain ⟨hx, hxs⟩ := hpass
    have hlt : j < L.count := by omega
    have hchunk := requestRun_passes (s := s.counting (L.pageOf (j + 1)) (BitVec.ofNat 32 j)) (q := L.seq j acc)
      (rs := xs.flatMap drawsOf ++ rs) h.request (hx j) (h.next j hlt (tr ++ recordsOf j x) (acc ++ bytesOf x))
    rw [List.flatMap_cons, List.append_assoc, hdraws j x, ChunkLoop.head_of_lt hlt]
    refine hchunk.trans ?_
    rw [ih hxs (by omega), recordsFrom, List.flatMap_cons, List.append_assoc, List.append_assoc,
      Nat.add_right_comm, Nat.add_assoc]

/-- A loop whose chunks all pass returns what they gathered. -/
theorem ChunkLoop.Drives.run_all (h : L.Drives i s) (hdraws : ∀ j x, drawsOf x = (recordsOf j x).map TxnRecord.got)
    (hpass : ∀ x ∈ xs, ∀ j, Passes s.cfg (L.first j :: L.rest j) (recordsOf j x) (bytesOf x) [])
    (hcount : xs.length = L.count) {p : Payload} (hp : L.payload (xs.flatMap bytesOf) = p) :
    ∃ u cur k, exec i s = .next u ∧ requestRun i (xs.flatMap drawsOf) u =
      .next { s.endedWith (resultKind (.ok p)) (resultInfo (.ok p)) (resultData (.ok p)) (.ok p)
        (s.trace ++ recordsFrom recordsOf 0 xs) with cur := cur, k := k } := by
  refine ⟨_, L.pageOf L.count, BitVec.ofNat 32 L.count, h.start, ?_⟩
  have hrun := h.run_chunks hdraws hpass (j := 0) (by omega) [] [] []
  rw [List.append_nil, Nat.zero_add, hcount, ChunkLoop.head_count, List.nil_append, List.nil_append, hp] at hrun
  exact hrun

/-- A chunk that raises ends the request, after the chunks before it (R268). -/
theorem ChunkLoop.Drives.run_failure (h : L.Drives i s)
    (hdraws : ∀ j x, drawsOf x = (recordsOf j x).map TxnRecord.got)
    (hpass : ∀ x ∈ xs, ∀ j, Passes s.cfg (L.first j :: L.rest j) (recordsOf j x) (bytesOf x) [])
    (hcount : xs.length < L.count) {records : List TxnRecord} {e : Err}
    (hends : EndsIn s.cfg (L.first xs.length :: L.rest xs.length) records (.raise e)) :
    ∃ u cur k, exec i s = .next u ∧ requestRun i (xs.flatMap drawsOf ++ records.map TxnRecord.got) u =
      .next { s.endedInError e (s.trace ++ (recordsFrom recordsOf 0 xs ++ records)) with cur := cur, k := k } := by
  refine ⟨_, L.pageOf (xs.length + 1), BitVec.ofNat 32 xs.length, h.start, ?_⟩
  rw [h.run_chunks hdraws hpass (j := 0) (by omega), Nat.zero_add, ChunkLoop.head_of_lt hcount]
  exact requestRun_raises h.request hends

end Chunks

/-! ### Pages and counters as numbers -/

theorem pageAt_zero (p : U32) (stride : Nat) : pageAt p stride 0 = p := BitVec.add_zero p

theorem pageAt_succ (p : U32) (stride j : Nat) :
    pageAt p stride (j + 1) = pageAt p stride j + BitVec.ofNat 32 stride := by
  rw [pageAt, pageAt, Nat.mul_succ, BitVec.ofNat_add, BitVec.add_assoc]

theorem toNat_pageAt {p : U32} {stride j : Nat} (h : p.toNat + stride * j < 2 ^ 32) :
    (pageAt p stride j).toNat = p.toNat + stride * j := by
  rw [pageAt, BitVec.toNat_add, BitVec.toNat_ofNat, Nat.add_mod_mod, Nat.mod_eq_of_lt h]

theorem toNat_counter {j n : Nat} (hj : j ≤ n) (hn : n < 2 ^ 32) : (BitVec.ofNat 32 j).toNat = j := by
  rw [BitVec.toNat_ofNat, Nat.mod_eq_of_lt (by omega)]

/-- The end of a chunk moves the counter on (R35). -/
theorem counting_next (s : State) (cur : U32) (j : Nat) (tr : List TxnRecord) :
    { (s.counting cur (BitVec.ofNat 32 j)).recorded tr with k := BitVec.ofNat 32 j + 1#32 } =
      (s.counting cur (BitVec.ofNat 32 (j + 1))).recorded tr := by
  rw [BitVec.ofNat_add]
  rfl

/-- The registers of a loop that begins. -/
theorem counting_start (s : State) (p : U32) (stride : Nat) :
    { s with cur := p, k := 0#32 } = (s.counting (pageAt p stride 0) (BitVec.ofNat 32 0)).recorded [] := by
  rw [pageAt_zero, State.recorded_nil]
  rfl

/-- A transcript cut short by the transport says what the device returned. -/
theorem struck_draws {draws : List TxnResult} {records : List TxnRecord} (h : draws = records.map TxnRecord.got)
    (j : Nat) (r : TxnRecord) (t : TErr) :
    draws.take j ++ [.err t] = (records.take j ++ [r.failedBy t]).map TxnRecord.got := by
  rw [h, List.map_append, List.map_take]
  rfl

/-! ## SREAD (R263) -/

theorem checkRw_of_ok {c : Config} {off len : U32} (hoff : off.toNat % 2048 = 0) (hlen : len.toNat % 2048 = 0)
    (hcap : off.toNat + len.toNat ≤ c.capacity) : checkRw c off len = none := by
  rw [checkRw, if_neg (by omega), if_neg (by rw [pageSize]; omega)]

/-- STORAGE_READ's loop. -/
def readingLoop (off len : U32) : ChunkLoop where
  count := len.toNat / 2048
  page := fromByteAddress off
  stride := 1
  tail _ := .readLoop (len.toNat / 2048)
  first j := .send (.pageDataReadWire (wirePage (pageAt (fromByteAddress off) 1 j)))
  rest _ := [.poll 0 .nothing, .readData 0#32 2048#32]
  payload := .bytes

theorem readHead_counting (s : State) (off len : U32) (tr : List TxnRecord) {j : Nat}
    (hj : j ≤ (readingLoop off len).count) (m : Nat) (acc : List Byte) :
    ((s.counting ((readingLoop off len).pageOf j) (BitVec.ofNat 32 j)).recorded tr).readHead
        ((readingLoop off len).seq m acc) (len.toNat / 2048) =
      .next ((readingLoop off len).head s tr j acc) := by
  have hk : (BitVec.ofNat 32 j).toNat = j := toNat_counter hj (by simp only [readingLoop]; omega)
  rw [State.readHead_eq, ChunkLoop.head, apply_ite Outcome.next]
  refine ite_congr (congrArg (· < _) hk) (fun _ => ?_) fun _ => rfl
  rw [ChunkLoop.pageOf, ChunkLoop.pageOf, pageAt_succ]
  rfl

theorem readingLoop_drives {s : State} (hseq : s.seq = none) {off len : U32} (hoff : off.toNat % 2048 = 0)
    (hlen : len.toNat % 2048 = 0) (hcap : off.toNat + len.toNat ≤ s.cfg.capacity) :
    (readingLoop off len).Drives (.sread off len) s where
  request := rfl
  start := by
    have hstart : exec (.sread off len) s = startRead off len s := runRequest_start hseq
    rw [hstart, startRead, checkRw_of_ok hoff hlen hcap]
    simp only [counting_start s (fromByteAddress off) 1]
    exact readHead_counting s off len [] (Nat.zero_le _) 0 []
  next j hj tr acc := by
    have hhead := readHead_counting s off len tr hj j acc
    rw [← counting_next] at hhead
    exact hhead

theorem pollDraws_eq (c : Config) (busy : List RegRead) (last : RegRead) :
    pollDraws busy last = (pollRecords c busy last).map TxnRecord.got := by
  simp [pollDraws, pollRecords, regRecord, Function.comp_def]

theorem ReadDraw.draws_eq (c : Config) (p : U32) (x : ReadDraw) :
    x.draws = (x.records c p).map TxnRecord.got := by
  simp [ReadDraw.draws, ReadDraw.records, pollDraws, pollRecords, sentRecord, regRecord, readRecord,
    Function.comp_def]

/-- A page read whose poll ends, whatever follows it (R220). -/
theorem passes_pageRead {c : Config} {busy : List RegRead} {last : RegRead} (hpoll : pollEnds c busy last) (p : U32)
    (left : List Op) :
    Passes c (.send (.pageDataReadWire (wirePage p)) :: .poll 0 .nothing :: left)
      (sentRecord (c.opc.pageDataRead :: serPage p) :: pollRecords c busy last) [] left :=
  (passes_send _ _).trans (passes_poll hpoll rfl left)

/-- A chunk that the device answers passes and gives its bytes. -/
theorem passes_readChunk {c : Config} {x : ReadDraw} (hgood : x.good c) (p : U32) :
    Passes c (readChunk p) (x.records c p) x.bytes [] := by
  obtain ⟨hpoll, hlen⟩ := hgood
  exact (passes_pageRead hpoll p _).trans (passes_readData (len := 2048#32) hlen [])

/-- Each way in which a chunk of STORAGE_READ fails ends its transactions in that error (R268). -/
theorem endsIn_readChunk {c : Config} {p : U32} {draws : List TxnResult} {records : List TxnRecord} {e : Err}
    (hfails : ReadChunkFails c p draws records e) :
    draws = records.map TxnRecord.got ∧ EndsIn c (readChunk p) records (.raise e) := by
  cases hfails with
  | transport x j r t good struck =>
    exact ⟨struck_draws (ReadDraw.draws_eq c p x) j r t, (passes_readChunk good p).struck struck t⟩
  | pollTimeout busy spent =>
    refine ⟨?_, .after (passes_send _ _) (endsIn_poll_of_spent spent _ _)⟩
    rw [List.map_cons, List.map_map]
    rfl

theorem flatMap_bytes_length {c : Config} {xs : List ReadDraw} (h : ∀ x ∈ xs, x.good c) :
    (xs.flatMap ReadDraw.bytes).length = 2048 * xs.length := by
  rw [List.length_flatMap, List.map_eq_replicate_iff.mpr fun x hx => (h x hx).2, List.sum_replicate, smul_eq_mul,
    Nat.mul_comm]

/-- Settles O36: every chunk passes, and the bytes gathered are as many as were asked for. -/
theorem storageRead : Obligations.StorageRead := by
  unfold Obligations.StorageRead
  intro s off len xs hseq hgood hoff hlen hcap
  have hinfo : resultInfo (.ok (.bytes (xs.flatMap ReadDraw.bytes))) = len := by
    rw [resultInfo, flatMap_bytes_length hgood, ← hlen, BitVec.ofNat_toNat, BitVec.setWidth_eq]
  have hrun := (readingLoop_drives hseq hoff (by omega) hcap).run_all
    (recordsOf := fun j => ReadDraw.records s.cfg (pageAt (fromByteAddress off) 1 j))
    (fun j => ReadDraw.draws_eq s.cfg _) (fun x hx j => passes_readChunk (hgood x hx) _)
    (by simp only [readingLoop]; omega) (p := .bytes (xs.flatMap ReadDraw.bytes)) rfl
  rwa [hinfo] at hrun

/-! ## SWRITE and SERASE: a write-enable, the frames of one chunk or block, and a poll (R264, R265) -/

/-- The transactions of one chunk or block after its first. -/
def writeRest (cmds : List Instr) (check : PollCheck) : List Op :=
  .checkWel :: (cmds.map .send ++ [.poll 0 check])

/-- The byte streams that a list of commands sends (R11). -/
def framesOf (c : Config) (cmds : List Instr) : List (List Byte) := cmds.map fun cmd => opStream c (.send cmd)

theorem passes_writeFrames {c : Config} {we : RegRead} (hset : (decodeSr3 c.layout we.value).wel = 1#1)
    (cmds : List Instr) (left : List Op) :
    Passes c (weSeq ++ (cmds.map .send ++ left))
      (writeRecords c we (framesOf c cmds)) [] left := by
  rw [writeRecords, framesOf, List.map_map]
  exact (passes_weSeq hset _).trans (passes_sends cmds left)

/-- A chunk or block that runs comes to the check of its last snapshot. -/
theorem endsIn_write {c : Config} {x : WriteDraw} (hruns : x.runs c) (cmds : List Instr) (check : PollCheck) :
    EndsIn c (.send .writeEnableWire :: writeRest cmds check)
      (writeRecords c x.we (framesOf c cmds) ++ pollRecords c x.busy x.last)
      (checkPoll c x.last.value check) := by
  obtain ⟨hset, hpoll⟩ := hruns
  exact .after (passes_writeFrames hset cmds _) (endsIn_poll hpoll check [])

theorem passes_write {c : Config} {x : WriteDraw} (hruns : x.runs c) (cmds : List Instr) {check : PollCheck}
    (hcheck : checkPoll c x.last.value check = .proceed []) :
    Passes c (.send .writeEnableWire :: writeRest cmds check)
      (writeRecords c x.we (framesOf c cmds) ++ pollRecords c x.busy x.last) [] [] := by
  obtain ⟨hset, hpoll⟩ := hruns
  exact (passes_writeFrames hset cmds _).trans (passes_poll hpoll hcheck [])

theorem writeDraws_eq (c : Config) (we : RegRead) (frames : List (List Byte)) :
    writeDraws we frames = (writeRecords c we frames).map TxnRecord.got := by
  simp [writeDraws, writeRecords, weRecords, sentRecord, regRecord, Function.comp_def]

theorem writeTurn_draws_eq (c : Config) (x : WriteDraw) (frames : List (List Byte)) :
    writeDraws x.we frames ++ pollDraws x.busy x.last =
      (writeRecords c x.we frames ++ pollRecords c x.busy x.last).map TxnRecord.got := by
  rw [List.map_append, ← writeDraws_eq, ← pollDraws_eq]

/-- Each way in which a chunk of STORAGE_WRITE or a block of STORAGE_ERASE fails ends its transactions in that error
(R268). -/
theorem endsIn_writeBody {c : Config} {cmds : List Instr} {check : PollCheck} {failed : Byte → Prop}
    {failure e : Err} {draws : List TxnResult} {records : List TxnRecord}
    (hfails : WriteBodyFails c (framesOf c cmds) failed failure draws records e)
    (hcheck : ∀ v, failed v → checkPoll c v check = .raise failure) :
    draws = records.map TxnRecord.got ∧
      EndsIn c (.send .writeEnableWire :: writeRest cmds check) records (.raise e) := by
  cases hfails with
  | transport x j r t runs struck =>
    exact ⟨struck_draws (writeTurn_draws_eq c x _) j r t, (endsIn_write runs cmds check).struck struck t⟩
  | writeEnable we clear => exact ⟨rfl, endsIn_weSeq_of_clear clear _⟩
  | pollTimeout we busy set spent =>
    refine ⟨?_, .after (passes_writeFrames set cmds _) (endsIn_poll_of_spent spent _ _)⟩
    rw [writeDraws_eq c, List.map_append, List.map_map]
    rfl
  | reported x runs flag =>
    exact ⟨writeTurn_draws_eq c x _, hcheck _ flag ▸ endsIn_write runs cmds check⟩

/-! ## SWRITE (R264) -/

/-- The commands of one chunk of STORAGE_WRITE after its write-enable sequence. -/
def chunkCommands (c : Config) (p : U32) (chunk : List Byte) : List Instr :=
  [.loadProgramDataWire (wireCol c 0#32) chunk, .programExecuteWire (wirePage p)]

theorem framesOf_chunkCommands (c : Config) (p : U32) (chunk : List Byte) :
    framesOf c (chunkCommands c p chunk) = chunkFrames c p chunk :=
  congrArg (· :: [c.opc.programExecute :: serPage p]) (opStream_load c 0#32 chunk)

/-- STORAGE_WRITE's loop. -/
def writingLoop (c : Config) (off : U32) (data : List Byte) : ChunkLoop where
  count := data.length / 2048
  page := fromByteAddress off
  stride := 1
  tail _ := .writeLoop (data.length / 2048)
  first _ := .send .writeEnableWire
  rest j := writeRest (chunkCommands c (pageAt (fromByteAddress off) 1 j) (dataChunk data j))
    (.programFlag (pageAt (fromByteAddress off) 1 j))
  payload _ := .unit

theorem writeHead_counting (s : State) {off : U32} {data : List Byte} (hdata : data.length < 2 ^ 32)
    (tr : List TxnRecord) {j : Nat} (hj : j ≤ (writingLoop s.cfg off data).count) (m : Nat) (acc : List Byte) :
    ((s.counting ((writingLoop s.cfg off data).pageOf j) (BitVec.ofNat 32 j)).recorded tr).writeHead
        ((writingLoop s.cfg off data).seq m acc) data (data.length / 2048) =
      .next ((writingLoop s.cfg off data).head s tr j acc) := by
  have hk : ((s.counting ((writingLoop s.cfg off data).pageOf j) (BitVec.ofNat 32 j)).recorded tr).k.toNat = j :=
    toNat_counter hj (by simp only [writingLoop]; omega)
  rw [State.writeHead_eq, hk, ChunkLoop.head, apply_ite Outcome.next]
  refine ite_congr rfl (fun _ => ?_) fun _ => rfl
  rw [ChunkLoop.pageOf, ChunkLoop.pageOf, pageAt_succ]
  rfl

theorem writingLoop_drives {s : State} (hseq : s.seq = none) {off : U32} {data : List Byte}
    (hoff : off.toNat % 2048 = 0) (hlen : data.length % 2048 = 0) (hdata : data.length < 2 ^ 32)
    (hcap : off.toNat + data.length ≤ s.cfg.capacity) :
    (writingLoop s.cfg off data).Drives (.swrite off data) s where
  request := rfl
  start := by
    have hstart : exec (.swrite off data) s = startWrite off data s := runRequest_start hseq
    have hword : (BitVec.ofNat 32 data.length).toNat = data.length := Nat.mod_eq_of_lt hdata
    rw [hstart, startWrite, checkRw_of_ok hoff (by rwa [hword]) (by rwa [hword])]
    simp only [counting_start s (fromByteAddress off) 1]
    exact writeHead_counting s hdata [] (Nat.zero_le _) 0 []
  next j hj tr acc := by
    have hhead := writeHead_counting s hdata tr hj j acc
    rw [← counting_next] at hhead
    exact hhead

theorem chunkDraws_eq (c : Config) (p : U32) (chunk : List Byte) (x : WriteDraw) :
    x.chunkDraws = (x.chunkRecords c p chunk).map TxnRecord.got :=
  writeTurn_draws_eq c x (chunkFrames c p chunk)

/-- A chunk that runs and reports no failure passes. -/
theorem passes_writeChunk {c : Config} {x : WriteDraw} (hruns : x.runs c)
    (hflag : (decodeSr3 c.layout x.last.value).pFail = 0#1) (p : U32) (chunk : List Byte) :
    Passes c (.send .writeEnableWire :: writeRest (chunkCommands c p chunk) (.programFlag p))
      (x.chunkRecords c p chunk) [] [] := by
  have hcheck : checkPoll c x.last.value (.programFlag p) = .proceed [] := by simp [checkPoll, hflag]
  have hpass := passes_write hruns (chunkCommands c p chunk) hcheck
  rwa [framesOf_chunkCommands] at hpass

/-- Settles O37: every chunk passes and gathers nothing. -/
theorem storageWrite : Obligations.StorageWrite := by
  unfold Obligations.StorageWrite
  intro s off data xs hseq hgood hoff hlen hdata hcap
  exact (writingLoop_drives hseq hoff (by omega) hdata hcap).run_all
    (recordsOf := fun j => WriteDraw.chunkRecords s.cfg (pageAt (fromByteAddress off) 1 j) (dataChunk data j))
    (fun j => chunkDraws_eq s.cfg _ _)
    (fun x hx j => passes_writeChunk (hgood x hx).1 (hgood x hx).2 _ _)
    (by simp only [writingLoop]; omega) (p := .unit) rfl

/-! ## SERASE (R265) -/

theorem checkErase_of_ok {c : Config} {fromOff toOff : U32} (hfrom : fromOff.toNat % 131072 = 0)
    (hto : toOff.toNat % 131072 = 0) (hle : fromOff.toNat ≤ toOff.toNat) (hcap : toOff.toNat ≤ c.capacity) :
    checkErase c fromOff toOff = none := by
  rw [checkErase, if_neg (by omega), if_neg (by rw [blockSize]; omega)]

/-- How many blocks STORAGE_ERASE erases, in each range mode (conflict C1). -/
def eraseCount (mode : EraseRange) (fromOff toOff : U32) : Nat :=
  match mode with
  | .inclusive => (toOff.toNat - fromOff.toNat) / 131072 + 1
  | .exclusive => (toOff.toNat - fromOff.toNat) / 131072

/-- A block at page `p` is still to be erased, the end page being `tp`. -/
def InEraseRange (mode : EraseRange) (p tp : U32) : Prop :=
  match mode with
  | .inclusive => p.toNat ≤ tp.toNat
  | .exclusive => p.toNat < tp.toNat

/-- What follows the block before page `p`, in each range mode. -/
def eraseTail (mode : EraseRange) (p tp : U32) : Tail :=
  match mode with
  | .inclusive => .eraseBlocks (blocks p tp)
  | .exclusive => .eraseUpTo p tp

/-- STORAGE_ERASE's loop. -/
def erasingLoop (mode : EraseRange) (fromOff toOff : U32) : ChunkLoop where
  count := eraseCount mode fromOff toOff
  page := fromByteAddress fromOff
  stride := 64
  tail j := eraseTail mode (pageAt (fromByteAddress fromOff) 64 (j + 1)) (fromByteAddress toOff)
  first _ := .send .writeEnableWire
  rest j := writeRest [.blockEraseWire (wirePage (pageAt (fromByteAddress fromOff) 64 j))]
    (.eraseFlag (pageAt (fromByteAddress fromOff) 64 j))
  payload _ := .unit

/-- The head of STORAGE_ERASE's loop in each range mode, its next block being at `p`. -/
def State.eraseHeadAt (s : State) (mode : EraseRange) (q : Seq) (p tp : U32) : Step :=
  match mode with
  | .inclusive => s.eraseHead q (blocks p tp)
  | .exclusive => s.eraseUpToHead q p tp

/-- Inside its bound the loop's head drives the block's write-enable and moves on by one block. -/
theorem eraseHeadAt_of_inside (s : State) {mode : EraseRange} (q : Seq) {p tp : U32}
    (hin : InEraseRange mode p tp) (hroom : p.toNat + 64 < 2 ^ 32) :
    s.eraseHeadAt mode q p tp =
      .next ({ s with cur := p + 64#32 }.issue { q with tail := eraseTail mode (p + 64#32) tp }
        (.send .writeEnableWire) (writeRest [.blockEraseWire (wirePage p)] (.eraseFlag p))) := by
  cases mode with
  | inclusive =>
    have hnext := blocksNext_of_le hin
    rw [if_neg (by omega)] at hnext
    simp only [State.eraseHeadAt, State.eraseHead, hnext]
    rfl
  | exclusive => exact (s.eraseUpToHead_eq q p tp).trans (if_pos hin)

/-- Past its bound the request returns. -/
theorem eraseHeadAt_of_outside (s : State) {mode : EraseRange} (q : Seq) {p tp : U32}
    (hout : ¬InEraseRange mode p tp) :
    s.eraseHeadAt mode q p tp = .next (s.finish (.ok .unit)) := by
  cases mode with
  | inclusive =>
    have hnext := blocksNext_past (Nat.lt_of_not_le hout)
    simp only [State.eraseHeadAt, State.eraseHead, hnext]
    rfl
  | exclusive => exact (s.eraseUpToHead_eq q p tp).trans (if_neg hout)

/-- The pages of the blocks do not wrap (R265: the offsets are words). -/
theorem toNat_erasePage {fromOff toOff : U32} {mode : EraseRange} {j : Nat}
    (hj : j ≤ eraseCount mode fromOff toOff) :
    (pageAt (fromByteAddress fromOff) 64 j).toNat = fromOff.toNat / 2048 + 64 * j ∧
      fromOff.toNat / 2048 + 64 * j + 64 < 2 ^ 32 := by
  have hcount : j ≤ (toOff.toNat - fromOff.toNat) / 131072 + 1 := by
    cases mode with
    | inclusive => exact hj
    | exclusive => exact Nat.le_succ_of_le hj
  have hroom : fromOff.toNat / 2048 + 64 * j + 64 < 2 ^ 32 := by omega
  exact ⟨by rw [toNat_pageAt (by rw [toNat_fromByteAddress]; omega), toNat_fromByteAddress], hroom⟩

section Erase

variable {fromOff toOff : U32} (hfrom : fromOff.toNat % 131072 = 0) (hto : toOff.toNat % 131072 = 0)
  (hle : fromOff.toNat ≤ toOff.toNat)

include hfrom hto hle

/-- The blocks to erase are the first `eraseCount`. -/
theorem inEraseRange_iff {mode : EraseRange} {j : Nat} (hj : j ≤ eraseCount mode fromOff toOff) :
    InEraseRange mode (pageAt (fromByteAddress fromOff) 64 j) (fromByteAddress toOff) ↔
      j < eraseCount mode fromOff toOff := by
  obtain ⟨hpage, -⟩ := toNat_erasePage hj
  cases mode with
  | inclusive => simp only [InEraseRange, eraseCount, hpage, toNat_fromByteAddress]; omega
  | exclusive => simp only [InEraseRange, eraseCount, hpage, toNat_fromByteAddress]; omega

theorem eraseHeadAt_counting (s : State) (mode : EraseRange) (tr : List TxnRecord) {j : Nat}
    (hj : j ≤ (erasingLoop mode fromOff toOff).count) (t : Tail) (acc : List Byte) :
    ((s.counting ((erasingLoop mode fromOff toOff).pageOf j) (BitVec.ofNat 32 j)).recorded tr).eraseHeadAt mode
        { ops := [], tail := t, acc := acc, tryItem := false } (pageAt (fromByteAddress fromOff) 64 j)
        (fromByteAddress toOff) =
      .next ((erasingLoop mode fromOff toOff).head s tr j acc) := by
  obtain ⟨hpage, hroom⟩ := toNat_erasePage hj
  have hin := inEraseRange_iff hfrom hto hle hj
  rw [ChunkLoop.head]
  split
  · next hlt =>
    rw [eraseHeadAt_of_inside _ _ (hin.mpr hlt) (by rw [hpage]; exact hroom), ChunkLoop.pageOf, ChunkLoop.pageOf,
      ← pageAt_succ (fromByteAddress fromOff) 64 j]
    rfl
  · next hge => rw [eraseHeadAt_of_outside _ _ fun h => hge (hin.mp h)]; rfl

theorem erasingLoop_drives {s : State} (hseq : s.seq = none) (hcap : toOff.toNat ≤ s.cfg.capacity) :
    (erasingLoop s.cfg.eraseRange fromOff toOff).Drives (.serase fromOff toOff) s where
  request := rfl
  start := by
    have hstart : exec (.serase fromOff toOff) s = startErase fromOff toOff s := runRequest_start hseq
    rw [hstart, startErase, checkErase_of_ok hfrom hto hle hcap]
    simp only [counting_start s (fromByteAddress fromOff) 64]
    have hhead := eraseHeadAt_counting hfrom hto hle s s.cfg.eraseRange [] (Nat.zero_le _)
    rw [pageAt_zero] at hhead
    cases hmode : s.cfg.eraseRange with
    | inclusive => rw [hmode] at hhead; exact hhead _ []
    | exclusive => rw [hmode] at hhead; exact hhead _ []
  next j hj tr acc := by
    have hhead := eraseHeadAt_counting hfrom hto hle s s.cfg.eraseRange tr hj
      ((erasingLoop s.cfg.eraseRange fromOff toOff).tail j) acc
    rw [← counting_next] at hhead
    revert hhead
    cases hmode : s.cfg.eraseRange with
    | inclusive => exact id
    | exclusive => exact id

end Erase

theorem blockDraws_eq (c : Config) (p : U32) (x : WriteDraw) :
    x.blockDraws = (x.blockRecords c p).map TxnRecord.got :=
  writeTurn_draws_eq c x (blockFrames c p)

/-- A block that runs and reports no failure passes. -/
theorem passes_eraseBlock {c : Config} {x : WriteDraw} (hruns : x.runs c)
    (hflag : (decodeSr3 c.layout x.last.value).eFail = 0#1) (p : U32) :
    Passes c (.send .writeEnableWire :: writeRest [.blockEraseWire (wirePage p)] (.eraseFlag p))
      (x.blockRecords c p) [] [] := by
  have hcheck : checkPoll c x.last.value (.eraseFlag p) = .proceed [] := by simp [checkPoll, hflag]
  exact passes_write hruns [.blockEraseWire (wirePage p)] hcheck

/-- Settles O38: the loop of each range mode erases its blocks, every one of which passes. -/
theorem storageErase : Obligations.StorageErase := by
  unfold Obligations.StorageErase
  intro s fromOff toOff xs hseq hgood hfrom hto hle hcap hcount
  exact (erasingLoop_drives hfrom hto hle hseq hcap).run_all
    (recordsOf := fun j => WriteDraw.blockRecords s.cfg (pageAt (fromByteAddress fromOff) 64 j))
    (fun j => blockDraws_eq s.cfg _) (fun x hx j => passes_eraseBlock (hgood x hx).1 (hgood x hx).2 _) hcount
    (p := .unit) rfl

/-! ## The chunk or block that fails (R268) -/

/-- Settles O39: the chunks before the failing one pass, and its own transactions end in its error. -/
theorem storageStopsAtFailure : Obligations.StorageStopsAtFailure := by
  unfold Obligations.StorageStopsAtFailure
  intro s hseq
  refine ⟨?read, ?write, ?erase⟩
  case read =>
    intro off len xs draws records e hgood hoff hlen hlt hcap hfails
    obtain ⟨hdraws, hends⟩ := endsIn_readChunk hfails
    subst hdraws
    exact (readingLoop_drives hseq hoff hlen hcap).run_failure
      (recordsOf := fun j => ReadDraw.records s.cfg (pageAt (fromByteAddress off) 1 j))
      (fun j => ReadDraw.draws_eq s.cfg _) (fun x hx j => passes_readChunk (hgood x hx) _)
      (by simp only [readingLoop]; omega) hends
  case write =>
    intro off data xs draws records e hgood hoff hlen hlt hdata hcap hfails
    rw [← framesOf_chunkCommands] at hfails
    obtain ⟨hdraws, hends⟩ := endsIn_writeBody (check := .programFlag _) hfails fun v hflag =>
      if_pos (c := (decodeSr3 s.cfg.layout v).pFail = 1#1) hflag
    subst hdraws
    exact (writingLoop_drives hseq hoff hlen hdata hcap).run_failure
      (recordsOf := fun j => WriteDraw.chunkRecords s.cfg (pageAt (fromByteAddress off) 1 j) (dataChunk data j))
      (fun j => chunkDraws_eq s.cfg _ _) (fun x hx j => passes_writeChunk (hgood x hx).1 (hgood x hx).2 _ _)
      (by simp only [writingLoop]; omega) hends
  case erase =>
    intro fromOff toOff xs draws records e hgood hfrom hto hle hcap hlt hfails
    obtain ⟨hdraws, hends⟩ := endsIn_writeBody (cmds := [.blockEraseWire (wirePage _)]) (check := .eraseFlag _)
      hfails fun v hflag => if_pos (c := (decodeSr3 s.cfg.layout v).eFail = 1#1) hflag
    subst hdraws
    exact (erasingLoop_drives hfrom hto hle hseq hcap).run_failure
      (recordsOf := fun j => WriteDraw.blockRecords s.cfg (pageAt (fromByteAddress fromOff) 64 j))
      (fun j => blockDraws_eq s.cfg _) (fun x hx j => passes_eraseBlock (hgood x hx).1 (hgood x hx).2 _) hlt hends

end Sys2Proof.Machine
end

section
/-! PROOFS of 44_bad_block_scanner: an active SCANNX answered in full (O40), and one whose transport fails (O41). -/

namespace Sys2Proof.Machine

open Host

/-! ## SCANNX in an active scan (R291, R315) -/

/-- The transactions of one scanner step at page `p`, as the device answers them (R291). -/
def scanRecords (c : Config) (p : U32) (busy : List RegRead) (last : RegRead) (a0 a1 b0 : Byte) : List TxnRecord :=
  sentRecord (c.opc.pageDataRead :: serPage p) ::
    (pollRecords c busy last ++ [readRecord c 0#32 [a0, a1], readRecord c 2048#32 [b0]])

theorem scanDraws_eq (c : Config) (p : U32) (busy : List RegRead) (last : RegRead) (a0 a1 b0 : Byte) :
    .ok [] :: (pollDraws busy last ++ [.ok [a0, a1], .ok [b0]]) =
      (scanRecords c p busy last a0 a1 b0).map TxnRecord.got := by
  rw [pollDraws_eq c, scanRecords, List.map_cons, List.map_append]
  rfl

theorem length_scanRecords (c : Config) (p : U32) (busy : List RegRead) (last : RegRead) (a0 a1 b0 : Byte) :
    (scanRecords c p busy last a0 a1 b0).length = busy.length + 4 := by
  simp [scanRecords, pollRecords]

/-- A scanner step that the device answers passes and gives the two leading bytes and the marker byte. -/
theorem passes_scanBody {c : Config} {busy : List RegRead} {last : RegRead} (hpoll : pollEnds c busy last) (p : U32)
    (a0 a1 b0 : Byte) :
    Passes c (scanBody p) (scanRecords c p busy last a0 a1 b0) [a0, a1, b0] [] :=
  (passes_pageRead hpoll p _).trans
    ((passes_readData (bytes := [a0, a1]) rfl _).trans (passes_readData (bytes := [b0]) rfl []))

/-- The sequencer of a scanner step at page `p`: its errors become items. -/
def scanSeq (p : U32) : Seq := { ops := [], tail := .ret (.item p), acc := [], tryItem := true }

/-- The state with the scanner's cursor moved on by one block (R291). -/
def State.pastBlock (s : State) : State := { s with scanNextPage := s.scanNextPage + 64#32 }

/-- Inside the bound the cursor moves on before the page read is driven (R291). -/
theorem exec_scannx_of_active {s : State} (hseq : s.seq = none) (hactive : s.scanActive = true)
    (hle : s.scanNextPage.toNat ≤ s.scanEnd.toNat) :
    exec .scannx s = .next ((s.pastBlock.recorded []).issue (scanSeq s.scanNextPage)
      (.send (.pageDataReadWire (wirePage s.scanNextPage)))
      [.poll 0 .nothing, .readData 0#32 2#32, .readData markerCol 1#32]) := by
  have hmore : ¬(s.scanActive = false ∨ s.scanEnd.toNat < s.scanNextPage.toNat) := by
    rw [hactive]
    simpa using hle
  have hstart : exec .scannx s = startScanNext s := runRequest_start hseq
  rw [hstart, startScanNext, if_neg hmore, State.recorded_nil]
  rfl

/-- Settles O40: every transaction of the step passes, and the bytes gathered are the item's. -/
theorem scanNextItem : Obligations.ScanNextItem := by
  unfold Obligations.ScanNextItem
  intro s busy last a0 a1 b0 hseq hactive hle hpoll
  refine ⟨_, exec_scannx_of_active hseq hactive hle, ?_⟩
  have hpass : Passes s.pastBlock.cfg (scanBody s.scanNextPage) _ [a0, a1, b0] [] :=
    passes_scanBody hpoll s.scanNextPage a0 a1 b0
  have hrun := requestRun_passes (i := .scannx) (s := s.pastBlock) (tr := []) (q := scanSeq s.scanNextPage) (rs := [])
    rfl hpass rfl
  rw [← scanDraws_eq, List.append_nil] at hrun
  exact hrun

/-- Settles O41: any transaction of the step may be struck, and the error it raises is caught as an item. -/
theorem scanNextError : Obligations.ScanNextError := by
  unfold Obligations.ScanNextError
  intro s busy last a0 a1 b0 t j hseq hactive hle hpoll hj
  obtain ⟨r, hr⟩ : ∃ r, (scanRecords s.cfg s.scanNextPage busy last a0 a1 b0)[j]? = some r :=
    ⟨_, List.getElem?_eq_getElem (by rwa [length_scanRecords])⟩
  refine ⟨_, r, exec_scannx_of_active hseq hactive hle, hr, ?_⟩
  have hends : EndsIn s.pastBlock.cfg (scanBody s.scanNextPage) _ (.raise (.transport t)) :=
    (passes_scanBody hpoll s.scanNextPage a0 a1 b0).struck hr t
  rw [struck_draws (scanDraws_eq s.cfg s.scanNextPage busy last a0 a1 b0) j r t, List.append_assoc]
  exact requestRun_raises (i := .scannx) (s := s.pastBlock) (tr := []) (q := scanSeq s.scanNextPage) rfl hends

end Sys2Proof.Machine
end

section
/-! PROOFS of 60_exceptions: the code and word of each error (O47), the requests that check one snapshot (O28, O29, O31,
O33), validation before any transaction (O43), a transport error (O42), a poll that times out or never ends (O44, O45),
and a run that never faults (O59). -/

namespace Sys2Proof.Machine

open Host

/-! ## Taking an error (R301, R310) -/

/-- Taking an error ends the request in that error, or in the item that carries it (R291). -/
theorem State.raise_eq_endedWith (s : State) (tryItem : Bool) (e : Err) :
    s.raise tryItem e =
      s.endedWith (errKind e) (errInfo e) [] (if tryItem then .ok (.item (.failed e)) else .err e) s.trace := by
  cases tryItem <;> rfl

/-- Settles O47: the codes and words are those of `errKind` and `errInfo`. -/
theorem errorCodes : Obligations.ErrorCodes := by
  unfold Obligations.ErrorCodes
  intro s t v p r n
  have hraise := s.raise_eq_endedWith false
  exact ⟨hraise _, hraise _, hraise _, hraise _, hraise _, hraise _, hraise _, hraise _, hraise _, hraise _⟩

/-! ## Requests that are one list of transactions, carried to their end -/

section Lists

variable {i : Instr} {s : State} {op : Op} {rest : List Op} {ret : Ret} {records : List TxnRecord}

/-- Transactions that all pass lead to the request's `return`. -/
theorem requestRun_list_passes {gathered : List Byte} {p : Payload} (hreq : isRequest i = true)
    (hpass : Passes s.cfg (op :: rest) records gathered []) (hp : retPayload s.cfg gathered ret = some p) :
    requestRun i (records.map TxnRecord.got) ((s.recorded []).issue (retSeq ret) op rest) =
      .next (s.endedWith (resultKind (.ok p)) (resultInfo (.ok p)) (resultData (.ok p)) (.ok p)
        (s.trace ++ records)) := by
  have hnext : (s.recorded ([] ++ records)).advance (requestData i) ((retSeq ret).gather gathered) [] =
      .next ((s.recorded records).finish (.ok p)) := by
    have hret : retPayload (s.recorded records).cfg ((retSeq ret).gather gathered).acc ret = some p := hp
    simp only [State.advance_nil, State.iterate, Seq.gather, retSeq, List.nil_append, State.deliver] at hret ⊢
    rw [hret]
  have hrun := requestRun_passes (rs := []) hreq hpass hnext
  rwa [List.append_nil, State.recorded_finish] at hrun

/-- A transaction that raises ends the request in its error. -/
theorem requestRun_list_raises {e : Err} (hreq : isRequest i = true)
    (hends : EndsIn s.cfg (op :: rest) records (.raise e)) :
    requestRun i (records.map TxnRecord.got) ((s.recorded []).issue (retSeq ret) op rest) =
      .next (s.endedInError e (s.trace ++ records)) :=
  requestRun_raises hreq hends

end Lists

/-! ## WREN and WRDI (R214, R215, R303, R304) -/

theorem judge_checkWelClear_of_clear {c : Config} {x : RegRead} (h : (decodeSr3 c.layout x.value).wel = 0#1) :
    judge c .checkWelClear x.draw = .proceed [] := by
  simp [judge, RegRead.draw, judgeOk, onRegister, h]

theorem judge_checkWelClear_of_set {c : Config} {x : RegRead} (h : (decodeSr3 c.layout x.value).wel = 1#1) :
    judge c .checkWelClear x.draw = .raise (.writeDisable x.value) := by
  simp [judge, RegRead.draw, judgeOk, onRegister, h]

/-- Settles O28: a frame and one Status3 read, whose `wel` passes or raises. -/
theorem writeLatchRequests : Obligations.WriteLatchRequests := by
  unfold Obligations.WriteLatchRequests
  intro s x hseq
  have hdisable := passes_send (c := s.cfg) .writeDisableWire [.checkWelClear]
  refine ⟨⟨_, (runRequest_start hseq).trans (startOps_cons ..), fun hset => ?_, fun hclear => ?_⟩,
    _, (runRequest_start hseq).trans (startOps_cons ..), fun hclear => ?_, fun hset => ?_⟩
  · exact requestRun_list_passes (p := .unit) rfl (passes_weSeq hset []) rfl
  · exact requestRun_list_raises rfl (endsIn_weSeq_of_clear hclear [])
  · exact requestRun_list_passes (p := .unit) rfl
      (hdisable.trans (.proceed (fun _ => rfl) (judge_checkWelClear_of_clear hclear) (.none []))) rfl
  · exact requestRun_list_raises rfl (.after hdisable (.head (fun _ => rfl) (judge_checkWelClear_of_set hset)))

/-! ## BERASE and PEXEC (R216, R219, R305, R306) -/

theorem checkPoll_eraseFlag_of_set {c : Config} {v : Byte} (h : (decodeSr3 c.layout v).eFail = 1#1) (p : U32) :
    checkPoll c v (.eraseFlag p) = .raise (.eraseFailure p) := if_pos h

theorem checkPoll_programFlag_of_set {c : Config} {v : Byte} (h : (decodeSr3 c.layout v).pFail = 1#1) (p : U32) :
    checkPoll c v (.programFlag p) = .raise (.programFailure p) := if_pos h

theorem checkPoll_programFlag_of_clear {c : Config} {v : Byte} (h : (decodeSr3 c.layout v).pFail = 0#1) (p : U32) :
    checkPoll c v (.programFlag p) = .proceed [] := by
  simp [checkPoll, h]

/-- Settles O29: a block that runs passes unless `e_fail` is set, and one whose `wel` is clear ends before the erase. -/
theorem blockErase : Obligations.BlockErase := by
  unfold Obligations.BlockErase
  intro s page x hseq
  rw [blockDraws_eq s.cfg page x]
  refine ⟨_, (runRequest_start hseq).trans (startOps_cons ..), fun hruns hflag => ?_, fun hruns hflag => ?_,
    fun hclear => ?_⟩
  · exact requestRun_list_passes (p := .unit) rfl (passes_eraseBlock hruns hflag page) rfl
  · have hends := endsIn_write hruns [.blockEraseWire (wirePage page)] (.eraseFlag page)
    rw [checkPoll_eraseFlag_of_set hflag] at hends
    exact requestRun_list_raises rfl hends
  · exact requestRun_list_raises rfl (endsIn_weSeq_of_clear hclear _)

/-- Settles O31: the program frame passes, and the last snapshot of the poll after it decides. -/
theorem programExecute : Obligations.ProgramExecute := by
  unfold Obligations.ProgramExecute
  intro s page busy last hseq hpoll
  have hsend := passes_send (c := s.cfg) (.programExecuteWire (wirePage page)) [.poll 0 (.programFlag page)]
  rw [pollDraws_eq s.cfg]
  refine ⟨_, (runRequest_start hseq).trans (startOps_cons ..), fun hflag => ?_, fun hflag => ?_⟩
  · exact requestRun_list_passes (p := .unit) rfl
      (hsend.trans (passes_poll hpoll (checkPoll_programFlag_of_clear hflag page) [])) rfl
  · have hends := endsIn_poll hpoll (.programFlag page) []
    rw [checkPoll_programFlag_of_set hflag] at hends
    exact requestRun_list_raises rfl (.after hsend hends)

/-! ## UNPROT (R223, R307) -/

/-- Whatever the write of Status1 returned, the request goes on. -/
theorem judge_unprotWrite (c : Config) (v : Byte) (w : TxnResult) : judge c (.unprotWrite v) w = .proceed [] := by
  cases w <;> rfl

theorem judge_unprotVerify_of_clear {c : Config} {y : RegRead} (h : (decodeSr1 c.layout y.value).bp = 0#4) :
    judge c .unprotVerify y.draw = .proceed [] := by
  simp [judge, RegRead.draw, judgeOk, onRegister, h]

theorem judge_unprotVerify_of_set {c : Config} {y : RegRead} (h : (decodeSr1 c.layout y.value).bp ≠ 0#4) :
    judge c .unprotVerify y.draw = .raise (.blockProtect (decodeSr1 c.layout y.value).bp) := if_pos h

/-- The read and the write lead to the re-read, whatever the write returned. -/
theorem requestRun_unprot_rewrite (s : State) (x : RegRead) (w : TxnResult) (rs : List TxnResult) :
    requestRun .unprot (x.draw :: w :: rs) ((s.recorded []).issue (retSeq .unit) .unprotRead [.unprotVerify]) =
      requestRun .unprot rs ((s.recorded [regRecord s.cfg 0xA0#8 x,
        { sent := [s.cfg.opc.writeReg, 0xA0#8, clearBp s.cfg.layout x.value], got := w }]).issue (retSeq .unit)
          .unprotVerify []) := by
  have hread : judge s.cfg .unprotRead x.draw = .replace (.unprotWrite (clearBp s.cfg.layout x.value)) := rfl
  rw [requestRun_replace rfl hread, requestRun_proceed rfl (judge_unprotWrite s.cfg _ w), Seq.gather_nil]
  rfl

/-- Settles O33: only the re-read is judged. -/
theorem unprotect : Obligations.Unprotect := by
  unfold Obligations.Unprotect
  intro s x y w hseq
  refine ⟨_, (runRequest_start hseq).trans (startOps_cons ..), fun hclear => ?_, fun hset => ?_⟩
  · rw [requestRun_unprot_rewrite,
      requestRun_return rfl (judge_unprotVerify_of_clear hclear) rfl (p := .unit) rfl, State.recorded_finish]
    rfl
  · rw [requestRun_unprot_rewrite, requestRun_raise rfl (judge_unprotVerify_of_set hset)]
    rfl

/-! ## Validation (R260, R261, R311, R312) -/

theorem checkRw_of_outside {c : Config} {off len : U32}
    (h : c.capacity < len.toNat ∨ c.capacity - len.toNat < off.toNat) :
    checkRw c off len = some (.outOfBounds off) := if_pos h

theorem checkRw_of_unaligned {c : Config} {off len : U32} (hcap : off.toNat + len.toNat ≤ c.capacity)
    (h : off.toNat % 2048 ≠ 0 ∨ len.toNat % 2048 ≠ 0) : checkRw c off len = some (.notAligned off) := by
  rw [checkRw, if_neg (by omega), if_pos (by rwa [pageSize])]

theorem checkErase_of_outside {c : Config} {fromOff toOff : U32}
    (h : toOff.toNat < fromOff.toNat ∨ c.capacity < toOff.toNat) :
    checkErase c fromOff toOff = some (.outOfBounds fromOff) := if_pos h

theorem checkErase_of_unaligned {c : Config} {fromOff toOff : U32} (hle : fromOff.toNat ≤ toOff.toNat)
    (hcap : toOff.toNat ≤ c.capacity) (h : fromOff.toNat % 131072 ≠ 0 ∨ toOff.toNat % 131072 ≠ 0) :
    checkErase c fromOff toOff = some (.notAligned fromOff) := by
  rw [checkErase, if_neg (by omega), if_pos (by rwa [blockSize])]

/-! A check that fails ends its request at once. -/

theorem exec_sread_of_check {s : State} {off len : U32} {e : Err} (hseq : s.seq = none)
    (h : checkRw s.cfg off len = some e) : exec (.sread off len) s = .next (s.raise false e) := by
  have hstart : exec (.sread off len) s = startRead off len s := runRequest_start hseq
  rw [hstart, startRead, h]

theorem exec_swrite_of_check {s : State} {off : U32} {data : List Byte} {e : Err} (hseq : s.seq = none)
    (h : checkRw s.cfg off (BitVec.ofNat 32 data.length) = some e) :
    exec (.swrite off data) s = .next (s.raise false e) := by
  have hstart : exec (.swrite off data) s = startWrite off data s := runRequest_start hseq
  rw [hstart, startWrite, h]

theorem exec_serase_of_check {s : State} {fromOff toOff : U32} {e : Err} (hseq : s.seq = none)
    (h : checkErase s.cfg fromOff toOff = some e) :
    exec (.serase fromOff toOff) s = .next (s.raise false e) := by
  have hstart : exec (.serase fromOff toOff) s = startErase fromOff toOff s := runRequest_start hseq
  rw [hstart, startErase, h]

/-- Settles O43: bounds are checked first, so each clause is one branch of its check. -/
theorem validation : Obligations.Validation := by
  unfold Obligations.Validation
  intro s hseq
  refine ⟨fun off len => ⟨fun hout => ?_, fun hcap hmis => ?_⟩,
    fun off data hdata => ?_, fun fromOff toOff => ⟨fun hout => ?_, fun hle hcap hmis => ?_⟩⟩
  · exact exec_sread_of_check hseq (checkRw_of_outside hout)
  · exact exec_sread_of_check hseq (checkRw_of_unaligned hcap hmis)
  · have hword : (BitVec.ofNat 32 data.length).toNat = data.length := Nat.mod_eq_of_lt hdata
    rw [← hword]
    exact ⟨fun hout => exec_swrite_of_check hseq (checkRw_of_outside hout),
      fun hcap hmis => exec_swrite_of_check hseq (checkRw_of_unaligned hcap hmis)⟩
  · exact exec_serase_of_check hseq (checkErase_of_outside hout)
  · exact exec_serase_of_check hseq (checkErase_of_unaligned hle hcap hmis)

/-! ## A transport error (R302, R310, R314) -/

/-- Only the Status1 write of UNPROT is exempt. -/
theorem raisesTransport_of_ne {op : Op} (h : ∀ v, op ≠ .unprotWrite v) (c : Config) : RaisesTransport c op := by
  intro t
  cases op with
  | unprotWrite v => exact absurd rfl (h v)
  | _ => rfl

/-- A raised verdict ends the request's turn (R310). -/
theorem State.resume_raise {s : State} {data : List Byte} {q : Seq} {op : Op} {rest : List Op} {r : TxnResult}
    {e : Err} (hops : q.ops = op :: rest) (hj : judge s.cfg op r = .raise e) :
    s.resume data q r = .next (s.raise q.tryItem e) := by
  simp only [State.resume, hops, hj]

/-- Settles O42: the sequencer's turn raises the error, whichever transaction failed. -/
theorem transportError : Obligations.TransportError := by
  unfold Obligations.TransportError
  intro i s q op rest t hreq hseq hops hrx hne
  have hraise : exec i s = .next (s.raise q.tryItem (.transport t)) :=
    (exec_request_resume hreq hseq hrx).trans (State.resume_raise hops (raisesTransport_of_ne hne s.cfg t))
  refine ⟨fun htry => ?_, fun htry => ?_⟩
  · rw [hraise, htry]
    rfl
  · rw [hraise, htry]
    rfl

/-! ## A request met in the middle of a transaction (R36) -/

section Polls

variable {i : Instr} {s : State} {q : Seq} {op : Op} {rest : List Op} {r : TxnResult} {rs : List TxnResult}

/-- The state in another phase. -/
def State.inPhase (s : State) (ph : Phase) : State := { s with phase := ph }

/-! What the sequencer makes of an answer does not depend on the phase, which it writes (R33). -/

theorem State.iterate_inPhase (s : State) (ph : Phase) (data : List Byte) (q : Seq) :
    (s.inPhase ph).iterate data q = s.iterate data q := by
  obtain ⟨_, tail, acc, tryItem⟩ := q
  cases tail with
  | ret ret => simp only [State.iterate, State.deliver, State.inPhase]; split <;> rfl
  | readLoop n => exact ite_congr rfl (fun _ => rfl) fun _ => rfl
  | writeLoop n => exact ite_congr rfl (fun _ => rfl) fun _ => rfl
  | eraseBlocks g => simp only [State.iterate, State.eraseHead]; split <;> rfl
  | eraseUpTo p tp => exact ite_congr rfl (fun _ => rfl) fun _ => rfl

theorem State.resume_inPhase (s : State) (ph : Phase) (data : List Byte) (q : Seq) (r : TxnResult) :
    (s.inPhase ph).resume data q r = s.resume data q r := by
  have hcfg : (s.inPhase ph).cfg = s.cfg := rfl
  simp only [State.resume, hcfg]
  split
  · rfl
  · next op rest _ =>
    split
    · next g _ =>
      cases rest with
      | cons op' rest => rfl
      | nil => exact s.iterate_inPhase ph data _
    · rfl
    · rfl
    · rfl

/-- A transaction on the bus is answered as if the sequencer had just driven it. -/
theorem requestRun_of_bus (hreq : isRequest i = true) (hseq : s.seq = some q) (hops : q.ops = op :: rest)
    (hbus : s.bus = some (opStream s.cfg op)) :
    requestRun i (r :: rs) s = requestRun i (r :: rs) ((s.recorded []).issue q op rest) := by
  have hdriven : ((s.recorded []).issue q op rest).answeredBy r = (s.answeredBy r).inPhase .busy := by
    rw [State.recorded_nil]
    simp only [State.issue, State.answeredBy, State.closeWindow, State.inPhase, ← hops, ← hseq, hbus,
      Option.getD_some]
  have hexec : exec i (s.answeredBy r) = exec i ((s.answeredBy r).inPhase .busy) := by
    rw [exec_request_resume hreq (s := s.answeredBy r) hseq rfl,
      exec_request_resume hreq (s := (s.answeredBy r).inPhase .busy) hseq rfl, State.resume_inPhase]
  simp only [requestRun, hdriven, hexec]

/-! ## A poll that times out, and a poll that never ends (R313, R316) -/

/-- The draws of a poll's busy reads, in the transcript's terms. -/
theorem busyDraws_eq (c : Config) (busy : List RegRead) :
    busy.map RegRead.draw = (busy.map (regRecord c 0xC0#8)).map TxnRecord.got := by
  rw [List.map_map]
  rfl

/-- However many reads of an unbounded poll saw busy, the next read is on the bus. -/
theorem requestRun_poll_unbounded {tr : List TxnRecord} {busy : List RegRead} {reads : Nat} {check : PollCheck}
    (hreq : isRequest i = true) (hbusy : ∀ x ∈ busy, busySet s.cfg x.value)
    (hlimit : s.cfg.pollLimit = .unbounded) :
    requestRun i (busy.map RegRead.draw) ((s.recorded tr).issue q (.poll reads check) rest) =
      .next ((s.recorded (tr ++ busy.map (regRecord s.cfg 0xC0#8))).issue q (.poll (reads + busy.length) check)
        rest) := by
  have hrun := requestRun_poll_busy (rs := []) (tr := tr) (q := q) (rest := rest) (reads := reads) (check := check)
    hreq hbusy (by simp [hlimit])
  rw [List.append_nil] at hrun
  exact hrun

end Polls

/-- Settles O45: the run is followed to the read that comes next, from PREAD's start and from any poll's read on the
bus. -/
theorem pollNeverEnds : Obligations.PollNeverEnds := by
  unfold Obligations.PollNeverEnds
  refine ⟨fun s page busy hseq hlimit hbusy => ?_,
    fun i s q reads check rest busy hreq hphase hseq hops hbus hlimit hbusy => ?_⟩
  · refine ⟨_, _, (runRequest_start hseq).trans (startOps_cons ..),
      (requestRun_send rfl).trans (requestRun_poll_unbounded rfl hbusy hlimit), rfl, rfl, rfl⟩
  · cases busy with
    | nil => exact ⟨s, rfl, hphase, hbus, rfl⟩
    | cons x busy =>
      exact ⟨_, (requestRun_of_bus hreq hseq hops hbus).trans (requestRun_poll_unbounded hreq hbusy hlimit), rfl, rfl,
        rfl⟩

/-! ## What every request's turn leads to (R34, R310) -/

/-- What a verdict says of the answer `r` of `op`: a timeout, that the poll's bound is used up (R313); a short answer,
that it has not the length of the frame (R11). -/
def verdictSays (c : Config) (op : Op) (r : TxnResult) : Verdict → Prop
  | .raise (.pollTimeout n) => c.pollLimit = .limit n
  | .short => ∃ bs, r = .ok bs ∧ bs.length ≠ keptLength (frame c (opCommand c op))
  | _ => True

/-- A register read is short only with another length than its frame keeps (R143). -/
theorem onRegister_says {c : Config} {op : Op} {f : Byte → Verdict} {bs : List Byte}
    (hlen : keptLength (frame c (opCommand c op)) = 3) (h : ∀ v, verdictSays c op (.ok bs) (f v)) :
    verdictSays c op (.ok bs) (onRegister bs f) := by
  unfold onRegister
  split
  · exact h _
  · next hne =>
    refine ⟨bs, rfl, fun heq => ?_⟩
    obtain ⟨b0, b1, v, rfl⟩ := List.length_eq_three.mp (heq.trans hlen)
    exact hne b0 b1 v rfl

theorem checkPoll_says (c : Config) (op : Op) (r : TxnResult) (v : Byte) (check : PollCheck) :
    verdictSays c op r (checkPoll c v check) := by
  cases check with
  | nothing => trivial
  | eraseFlag p | programFlag p =>
    simp only [checkPoll]
    split <;> trivial

theorem pollStep_says (c : Config) (op : Op) (r : TxnResult) (reads : Nat) (check : PollCheck) (v : Byte) :
    verdictSays c op r (pollStep c reads check v) := by
  unfold pollStep
  split
  · exact checkPoll_says c op r v check
  · split
    · assumption
    · trivial

theorem judge_says (c : Config) (op : Op) (r : TxnResult) : verdictSays c op r (judge c op r) := by
  cases r with
  | err t =>
    cases op with
    | unprotWrite val => trivial
    | _ => trivial
  | ok bs =>
    cases op with
    | send cmd | unprotWrite val => trivial
    | readReg sel | unprotRead => exact onRegister_says rfl fun _ => trivial
    | checkWel | checkWelClear | unprotVerify =>
      refine onRegister_says rfl fun v => ?_
      split <;> trivial
    | poll reads check => exact onRegister_says rfl (pollStep_says c _ _ reads check)
    | readJedec | readData col len =>
      simp only [judge, judgeOk]
      split
      · trivial
      · next hne => exact ⟨bs, rfl, fun heq => hne (heq.trans (Nat.zero_add _))⟩

/-- Under this configuration a request may end in `r`: with a timeout only if polls are bounded (R313). -/
def MayEnd (c : Config) (r : Result) : Prop :=
  c.pollLimit = .unbounded → ∀ n, r ≠ .err (.pollTimeout n) ∧ r ≠ .ok (.item (.failed (.pollTimeout n)))

/-- Where a request's turn in `s` leads: to a transaction, with the result latch as it was; to a result; or to a fault,
in a state that breaks the sequencer's invariant or while a window is open. -/
inductive Leads (s : State) : Step → Prop
  | drives (t : State) (q : Seq) (op : Op) (rest : List Op) (latch : t.result = s.result) :
      Leads s (.next (t.issue q op rest))
  | ends (t : State) (r : Result) (may : MayEnd s.cfg r) : Leads s (.next (t.finish r))
  | faults (f : Fault) (broken : ¬(sequencerOk s ∧ s.bus = none)) : Leads s (.fault f)

/-- A request that returns ends in no timeout. -/
theorem mayEnd_ok (c : Config) {p : Payload} (h : ∀ e, p ≠ .item (.failed e)) : MayEnd c (.ok p) :=
  fun _ n => ⟨nofun, fun heq => h (.pollTimeout n) (Result.ok.inj heq)⟩

theorem Leads.raises {s : State} (t : State) (tryItem : Bool) {e : Err}
    (h : ∀ n, e = .pollTimeout n → s.cfg.pollLimit ≠ .unbounded) : Leads s (.next (t.raise tryItem e)) := by
  refine .ends t _ fun hlimit n => ?_
  have hne : e ≠ .pollTimeout n := fun heq => h n heq hlimit
  cases tryItem <;> simp [hne]

theorem retPayload_ne_failed {c : Config} {acc : List Byte} {r : Ret} {p : Payload}
    (h : retPayload c acc r = some p) (e : Err) : p ≠ .item (.failed e) := by
  rintro rfl
  revert h
  fun_cases retPayload c acc r <;> nofun

/-- As many bytes as a `return` needs give its payload. -/
theorem retPayload_isSome {acc : List Byte} {r : Ret} (h : ∀ n, needs (.ret r) = some n → acc.length = n)
    (c : Config) : ∃ p, retPayload c acc r = some p := by
  cases r with
  | unit | bytes => exact ⟨_, rfl⟩
  | register | marker =>
    obtain ⟨v, rfl⟩ := List.length_eq_one_iff.mp (h 1 rfl)
    exact ⟨_, rfl⟩
  | identity | item =>
    obtain ⟨b0, b1, b2, rfl⟩ := List.length_eq_three.mp (h 3 rfl)
    exact ⟨_, rfl⟩

theorem deliver_leads {s : State} {acc : List Byte} {r : Ret}
    (h : sequencerOk s ∧ s.bus = none → ∀ n, needs (.ret r) = some n → acc.length = n) :
    Leads s (s.deliver acc r) := by
  unfold State.deliver
  split
  · next p hp => exact .ends s _ (mayEnd_ok _ (retPayload_ne_failed hp))
  · next hnone =>
    refine .faults _ fun hok => ?_
    obtain ⟨p, hp⟩ := retPayload_isSome (h hok) s.cfg
    cases hp.symm.trans hnone

/-! The loops' heads (R263–R265) never fault. -/

section Heads

variable {s t : State} (latch : t.result = s.result) (q : Seq)

include latch

theorem readHead_leads (n : Nat) : Leads s (t.readHead q n) := by
  rw [State.readHead_eq]
  split
  · exact .drives _ _ _ _ latch
  · exact .ends _ _ (mayEnd_ok _ nofun)

theorem writeHead_leads (data : List Byte) (n : Nat) : Leads s (t.writeHead q data n) := by
  rw [State.writeHead_eq]
  split
  · exact .drives _ _ _ _ latch
  · exact .ends _ _ (mayEnd_ok _ nofun)

theorem eraseHead_leads (g : BlockGen) : Leads s (t.eraseHead q g) := by
  unfold State.eraseHead
  split
  · exact .drives _ _ _ _ latch
  · exact .ends _ _ (mayEnd_ok _ nofun)

theorem eraseUpToHead_leads (p tp : U32) : Leads s (t.eraseUpToHead q p tp) := by
  rw [State.eraseUpToHead_eq]
  split
  · exact .drives _ _ _ _ latch
  · exact .ends _ _ (mayEnd_ok _ nofun)

end Heads

/-! The sequencer (R34). -/

theorem iterate_leads {s : State} {q : Seq} (data : List Byte)
    (h : sequencerOk s ∧ s.bus = none → ∀ n, needs q.tail = some n → q.acc.length = n) :
    Leads s (s.iterate data q) := by
  unfold State.iterate
  split
  · next r hr => exact deliver_leads (hr ▸ h)
  · exact readHead_leads (by rfl) q _
  · exact writeHead_leads (by rfl) q data _
  · exact eraseHead_leads (by rfl) q _
  · exact eraseUpToHead_leads (by rfl) q _ _

/-- With no window open, a request that has begun has an answer to consume, as long as the frame in flight keeps
(R36). -/
theorem inFlight_answered {s : State} {q : Seq} (hq : s.seq = some q) (h : sequencerOk s ∧ s.bus = none) :
    ∃ op rest r, q.ops = op :: rest ∧ s.rx = some r ∧
      ∀ bs, r = .ok bs → bs.length = keptLength (frame s.cfg (opCommand s.cfg op)) := by
  obtain ⟨hok, hbus⟩ := h
  rcases sequencerOk_cases hok with ⟨hnone, -, -⟩ | ⟨q', hq', -, -, -, -, op, rest, hops, hwhere⟩
  · cases hnone.symm.trans hq
  · cases hq'.symm.trans hq
    rcases hwhere with ⟨hsome, -⟩ | ⟨-, r, hr, hlen⟩
    · cases hsome.symm.trans hbus
    · exact ⟨op, rest, r, hops, hr, hlen⟩

theorem resume_leads {s : State} {q : Seq} {r : TxnResult} (data : List Byte) (hq : s.seq = some q)
    (hrx : s.rx = some r) : Leads s (s.resume data q r) := by
  unfold State.resume
  split
  · next hnil =>
    refine .faults _ fun h => ?_
    obtain ⟨op, rest, _, hops, -⟩ := inFlight_answered hq h
    cases hnil.symm.trans hops
  · next op rest hops =>
    have hsays := judge_says s.cfg op r
    split
    · next g hj =>
      cases rest with
      | cons op' rest => exact .drives _ _ _ _ rfl
      | nil =>
        refine iterate_leads data fun ⟨hok, _⟩ n hn => ?_
        obtain ⟨-, hneeds⟩ := seqGood_proceed (seqGood_of_sequencerOk hok hq) hops (judge_proceed hj)
        exact hneeds n hn
    · exact .drives _ _ _ _ rfl
    · next e hj =>
      refine .raises s _ fun n hn => ?_
      rw [hj, hn] at hsays
      rw [show s.cfg.pollLimit = .limit n from hsays]
      nofun
    · next hj =>
      rw [hj] at hsays
      obtain ⟨bs, hbs, hne⟩ := hsays
      refine .faults _ fun h => ?_
      obtain ⟨op', rest', r', hops', hrx', hlen⟩ := inFlight_answered hq h
      cases hops.symm.trans hops'
      cases hrx.symm.trans hrx'
      exact hne (hlen bs hbs)

theorem runRequest_leads {s : State} {start : State → Step} (data : List Byte) (h : Leads s (start s)) :
    Leads s (runRequest data start s) := by
  rcases hq : s.seq with _ | q
  · rwa [runRequest_start hq]
  · rcases hrx : s.rx with _ | r
    · simp only [runRequest, hq, hrx]
      refine .faults _ fun h => ?_
      obtain ⟨_, _, _, -, hr, -⟩ := inFlight_answered hq h
      cases hr.symm.trans hrx
    · rw [runRequest_resume hq hrx]
      exact resume_leads data hq hrx

/-! The starts of the requests. -/

theorem checkRw_ne_pollTimeout {c : Config} {off len : U32} {e : Err} (h : checkRw c off len = some e) (n : Nat) :
    e ≠ .pollTimeout n := by
  rintro rfl
  revert h
  fun_cases checkRw c off len <;> nofun

theorem checkErase_ne_pollTimeout {c : Config} {fromOff toOff : U32} {e : Err}
    (h : checkErase c fromOff toOff = some e) (n : Nat) : e ≠ .pollTimeout n := by
  rintro rfl
  revert h
  fun_cases checkErase c fromOff toOff <;> nofun

theorem startRead_leads (off len : U32) (s : State) : Leads s (startRead off len s) := by
  unfold startRead
  split
  · next e he => exact .raises s false fun n hn => absurd hn (checkRw_ne_pollTimeout he n)
  · exact readHead_leads (by rfl) _ _

theorem startWrite_leads (off : U32) (data : List Byte) (s : State) : Leads s (startWrite off data s) := by
  unfold startWrite
  split
  · next e he => exact .raises s false fun n hn => absurd hn (checkRw_ne_pollTimeout he n)
  · exact writeHead_leads (by rfl) _ _ _

theorem startErase_leads (fromOff toOff : U32) (s : State) : Leads s (startErase fromOff toOff s) := by
  unfold startErase
  split
  · next e he => exact .raises s false fun n hn => absurd hn (checkErase_ne_pollTimeout he n)
  · split
    · exact eraseHead_leads (by rfl) _ _
    · exact eraseUpToHead_leads (by rfl) _ _ _

theorem startScanNext_leads (s : State) : Leads s (startScanNext s) := by
  unfold startScanNext
  split
  · exact .ends _ _ (mayEnd_ok _ nofun)
  · exact .drives _ _ _ _ rfl

/-- A request that is one list of transactions starts with the first of them. -/
theorem startOps_leads (op : Op) (rest : List Op) (ret : Ret) (s : State) : Leads s (startOps (op :: rest) ret s) :=
  .drives s _ op rest rfl

theorem exec_request_leads {i : Instr} (hreq : isRequest i = true) (s : State) : Leads s (exec i s) := by
  cases i with
  | reset | jedec | wren | wrdi | rdreg | wrreg | berase | pload | ploadr | pexec | pread | rdata | unprot | pwrdn
  | bstat => exact runRequest_leads _ (startOps_leads _ _ _ s)
  | sread off len => exact runRequest_leads _ (startRead_leads off len s)
  | swrite off data => exact runRequest_leads _ (startWrite_leads off data s)
  | serase fromOff toOff => exact runRequest_leads _ (startErase_leads fromOff toOff s)
  | scap =>
    exact runRequest_leads (start := fun s => .next (s.finish (.ok (.number s.cfg.capacity)))) _
      (.ends s _ (mayEnd_ok _ nofun))
  | scanst => exact runRequest_leads (start := startScan) _ (.ends _ _ (mayEnd_ok _ nofun))
  | scannx => exact runRequest_leads _ (startScanNext_leads s)
  | _ => cases hreq

/-! ## Timeouts only under a bound (R313) -/

/-- A turn that leads on keeps the result latch or writes a result that the request may end in. -/
theorem Leads.result {s t : State} {o : Step} (h : Leads s o) (ho : o = .next t) :
    t.result = s.result ∨ ∃ r, MayEnd s.cfg r ∧ t.result = latchOf r := by
  cases h with
  | drives u q op rest latch => cases ho; exact .inl latch
  | ends u r may => cases ho; exact .inr ⟨r, may, rfl⟩
  | faults f broken => cases ho

/-- Under `Unbounded` no instruction ends in a timeout. -/
theorem exec_unbounded_result {i : Instr} {s t : State} (hlimit : s.cfg.pollLimit = .unbounded)
    (h : exec i s = .next t) :
    t.result = s.result ∨ ∀ n, t.result.outcome ≠ some (.err (.pollTimeout n)) ∧
      t.result.outcome ≠ some (.ok (.item (.failed (.pollTimeout n)))) := by
  cases hreq : isRequest i with
  | false =>
    obtain ⟨sent, got, d, rfl⟩ := exec_wire_next hreq h
    exact .inl rfl
  | true =>
    refine ((exec_request_leads hreq s).result h).imp_right fun ⟨r, may, hr⟩ n => ?_
    obtain ⟨herr, hitem⟩ := may hlimit n
    rw [hr]
    exact ⟨fun heq => herr (Option.some.inj heq), fun heq => hitem (Option.some.inj heq)⟩

/-- Settles O44: the `N`-th busy read raises, in PREAD's poll and in any poll whose read is on the bus. -/
theorem pollTimeouts : Obligations.PollTimeouts := by
  unfold Obligations.PollTimeouts
  refine ⟨fun s page busy n hseq hn hlimit hlen hbusy => ?_,
    fun i s q check rest busy n hreq hseq hops hbus hn hlimit hlen hbusy => ?_,
    fun i s t hlimit h => exec_unbounded_result hlimit h⟩
  · subst hlen
    have hspent : pollSpent s.cfg busy := ⟨List.ne_nil_of_length_pos hn, hlimit, hbusy⟩
    rw [busyDraws_eq s.cfg]
    exact ⟨_, (runRequest_start hseq).trans (startOps_cons ..), requestRun_list_raises rfl
      (.after (passes_send (.pageDataReadWire (wirePage page)) _) (endsIn_poll_of_spent hspent .nothing []))⟩
  · subst hlen
    have hspent : pollSpent s.cfg busy := ⟨List.ne_nil_of_length_pos hn, hlimit, hbusy⟩
    have hrun := requestRun_raises (tr := []) (q := q) hreq (endsIn_poll_of_spent hspent check rest)
    rw [← busyDraws_eq, State.raise_eq_endedWith] at hrun
    obtain ⟨x, busy, rfl⟩ := List.exists_cons_of_length_pos hn
    exact (requestRun_of_bus hreq hseq hops hbus).trans hrun

/-! ## No step faults (R310, R315) -/

/-- With no window open, a request's turn under the sequencer's invariant leads to a next state. -/
theorem Leads.next {s : State} {o : Step} (h : Leads s o) (hok : sequencerOk s) (hbus : s.bus = none) :
    ∃ t, o = .next t := by
  cases h with
  | drives u q op rest latch => exact ⟨_, rfl⟩
  | ends u r may => exact ⟨_, rfl⟩
  | faults f broken => exact absurd ⟨hok, hbus⟩ broken

theorem encoderTurn_next {s : State} (hok : sequencerOk s) (hbus : s.bus = none) : ∃ t, encoderTurn s = .next t := by
  rcases encoderTurn_cases s with ⟨i, hd, hi⟩ | ⟨e, -, hbad⟩
  · rw [hi]
    exact (exec_request_leads (decodeRequest_spellsRequest s.desc i hd) s).next hok hbus
  · exact ⟨_, hbad⟩

/-- What stands on the bus is a frame, which the device's turn takes as one transaction (R36, R157). -/
theorem deviceTurn_transact {s : State} {sent : List Byte} (hv : s.cfg.valid = true) (hok : sequencerOk s)
    (hb : s.bus = some sent) : ∃ segs, deviceTurn sent s = transact segs s := by
  rcases deviceTurn_cases sent s with ⟨i, hd, hi⟩ | ⟨e, -, hraw⟩
  · rcases sequencerOk_cases hok with ⟨-, hnone, -⟩ | ⟨q, -, -, -, hops, -, op, rest, hq, hwhere⟩
    · cases hnone.symm.trans hb
    rcases hwhere with ⟨hbus, -⟩ | ⟨hnone, -⟩
    · obtain ⟨hf, hwf⟩ := hops op (by rw [hq]; exact List.mem_cons_self)
      cases hbus.symm.trans hb
      cases (decodeWire_frame hv hf hwf s.cfg.rxFill).symm.trans hd
      obtain ⟨-, hexec⟩ := wire_window (isRequest_of_framed hf)
      exact ⟨_, hi.trans (hexec s)⟩
    · cases hnone.symm.trans hb
  · exact ⟨_, hraw⟩

/-- A step of an admitted configuration is a transaction, or it leads to a next state. -/
theorem step_transact_or_next {s : State} (hv : s.cfg.valid = true) (hok : sequencerOk s) :
    (∃ segs, step s = transact segs s) ∨ ∃ t, step s = .next t := by
  rw [step_of_valid hv]
  rcases agentTurn_cases s with ⟨sent, hb, hd⟩ | ⟨-, -, hreset⟩ | ⟨hb, -, -, he⟩ | ⟨-, -, -, hh⟩
  · rw [hd]
    exact .inl (deviceTurn_transact hv hok hb)
  · exact .inr ⟨_, hreset⟩
  · rw [he]
    exact .inr (encoderTurn_next hok hb)
  · rw [hh]
    rcases hostTurn_cases s with ⟨-, hw⟩ | ⟨item, rest, -, hs⟩
    · exact .inr ⟨_, hw⟩
    · exact .inr ⟨_, hs⟩

/-- Settles O59: a transaction never faults, and the oracle answers it. -/
theorem neverStops : Obligations.NeverStops := by
  unfold Obligations.NeverStops
  intro s hok
  refine ⟨fun f hf => ?_, fun hv horacle => ?_⟩
  · by_cases hv : s.cfg.valid = true
    · rcases step_transact_or_next hv hok with ⟨segs, hs⟩ | ⟨t, ht⟩
      · exact transact_ne_fault segs s f (hs.symm.trans hf)
      · cases ht.symm.trans hf
    · cases (step_of_not_valid hv).symm.trans hf
  · rcases step_transact_or_next hv hok with ⟨segs, hs⟩ | hnext
    · exact ⟨_, hs.trans (transact_oracle horacle segs)⟩
    · exact hnext

end Sys2Proof.Machine
end

section
/-! PROOFS of 70_reset_and_hazards: what an encoder reset leaves (O51). -/

namespace Sys2Proof.Machine

/-- With no window open, a reset that is asked for comes before the encoder's and the host's turn, whatever the phase
(R330, log 14). -/
theorem step_of_resetReq {s : State} (hv : s.cfg.valid = true) (hb : s.bus = none) (hr : s.resetReq = true) :
    step s = .next s.encoderReset := by
  simp only [step_of_valid hv, agentTurn, hb, hr, if_true]

/-- A request in flight is abandoned and a failed one has ended its expansion: both lose what is chained to them
(R126). -/
theorem scriptAfterReset_of_cut {s : State} (hcut : s.phase = .busy ∨ lastFailed s = true) :
    scriptAfterReset s = s.script.dropWhile (·.chained) := by
  rcases scriptAfterReset_cases s with ⟨-, hscript⟩ | ⟨hidle, hok, -⟩
  · exact hscript
  · rcases hcut with hbusy | hfail
    · cases hidle.symm.trans hbusy
    · cases hok.symm.trans hfail

/-- Between requests, with no failure behind it, the host keeps all it still has to submit (log 29). -/
theorem scriptAfterReset_of_kept {s : State} (hidle : s.phase = .idle) (hok : lastFailed s = false) :
    scriptAfterReset s = s.script := by
  rcases scriptAfterReset_cases s with ⟨hbusy | hfail, -⟩ | ⟨-, -, hscript⟩
  · cases hidle.symm.trans hbusy
  · cases hok.symm.trans hfail
  · exact hscript

/-- Settles O51: the step is the encoder's reset, and the phase and the last result say what it cuts from the script. -/
theorem encoderReset : Obligations.EncoderReset := by
  unfold Obligations.EncoderReset
  intro s hv hb hr
  exact ⟨scriptAfterReset s, step_of_resetReq hv hb hr, scriptAfterReset_of_cut, scriptAfterReset_of_kept⟩

end Sys2Proof.Machine
end
